-- ==== Sys2Proof/Word.lean ====
section
/-! DEFINITION. The unsigned integers of the block (spec 00_scope.md R8): `u8`, `u16`, `u32`. -/

namespace Sys2Proof

/-- `u8`: one byte of a buffer or of a payload (R8). -/
abbrev Byte := BitVec 8

/-- `u16`: a coordinate, a bus value, a colour or a chip register address (R8). -/
abbrev Half := BitVec 16

/-- `u32`: a counter (R30), the host status register (R33), a declared payload length (R104). -/
abbrev Word := BitVec 32

end Sys2Proof
end

