-- ==== Sys2Proof/Syntax.lean ====
section
/-! DEFINITION. The operations of the block: one constructor of `Instr` per row of spec/opcode_table.json
(the nineteen operations of 00_scope.md R9 and the fourteen chip register addresses of 30_encoding.md R96),
and the request descriptor a `SUBMIT` carries (R104). -/

namespace Sys2Proof

/-- The four formats of spec/opcode_table.json (30_encoding.md R90): an operation number with its operands
(R111), a chip register address (R96), a 17-bit bus word (R91), a request descriptor (R104). -/
inductive Format where
  | opid
  | chipReg
  | bus
  | req
  deriving DecidableEq, Repr

/-- A request descriptor as a foreground port receives it: eight 16-bit words and the payload bytes (R104).
It may be undecodable (R106): decoding it is part of `SUBMIT`. -/
structure Descriptor where
  h0 : Half
  h1 : Half
  h2 : Half
  h3 : Half
  h4 : Half
  h5 : Half
  h6 : Half
  h7 : Half
  payload : List Byte
  deriving DecidableEq, Repr

/-- A DrawRequest, the abstract tagged variant of 10_state.md R36. A fill keeps its declared payload length
(R105), because R141 asks that it be 0. -/
inductive Request where
  | blit (x0 y0 w h : Half) (bytes : List Byte)
  | fillrect (x0 x1 y0 y1 c : Half) (plen : Nat)
  | textrun (x y c : Half) (bytes : List Byte)
  deriving DecidableEq, Repr

/-- The operations, one constructor per row of spec/opcode_table.json, in the table's order. -/
inductive Instr where
  /-- `WCMD a`: select a chip register (R120). -/
  | wcmd (a : Half)
  /-- `WDAT v`: write the selected chip register (R121). -/
  | wdat (v : Half)
  /-- `BLIT x0,y0,w,h,bytes` (R142). -/
  | blit (x0 y0 w h : Half) (bytes : List Byte)
  /-- `FILLRECT x0,x1,y0,y1,c` (R140); `payload` is what a descriptor declares beyond it (R141). -/
  | fillrect (x0 x1 y0 y1 c : Half) (payload : List Byte)
  /-- `TEXTRUN x,y,c,bytes` (R145). -/
  | textrun (x y c : Half) (bytes : List Byte)
  /-- `RDAT`: read the shadow of the last written value (R122). -/
  | rdat
  /-- `SETCUR x,y` (R130). -/
  | setcur (x y : Half)
  /-- `SETWIN x0,x1,y0,y1` (R131). -/
  | setwin (x0 x1 y0 y1 : Half)
  /-- `BEGINWR` (R132). -/
  | beginwr
  /-- `IRQ`: the interrupt signal arrives (R160). -/
  | irq
  /-- `MIRROR`: one mirror cycle (R164). -/
  | mirror
  /-- `COPYFRAME`: the full-frame copy (R165). -/
  | copyframe
  /-- `ACQ`: blocking acquire by foreground agent `k` (R181). -/
  | acq (k : Nat)
  /-- `TRYACQ`: non-blocking acquire by the interrupt context (R182). -/
  | tryacq
  /-- `REL`: release by the holder (R183). -/
  | rel
  /-- `SUBMIT r` on foreground port `k` (R184). -/
  | submit (k : Nat) (d : Descriptor)
  /-- `ATTACH W,H,FB_BASE` with the FrameBuffer size supplied beside them (R195). -/
  | attach (w h fbBase fbSize : Nat)
  /-- `INITSEQ`: replay `INIT_TABLE` (R196). -/
  | initseq
  /-- `DETACH` (R198). -/
  | detach
  /-- The chip register holding window `x0` bits 7:0 (R96). -/
  | regWinX0L
  /-- Window `x0` bits 15:8 (R96). -/
  | regWinX0H
  /-- Window `y0` bits 7:0 (R96). -/
  | regWinY0L
  /-- Window `y0` bits 15:8 (R96). -/
  | regWinY0H
  /-- Window `x1` bits 7:0 (R96). -/
  | regWinX1L
  /-- Window `x1` bits 15:8 (R96). -/
  | regWinX1H
  /-- Window `y1` bits 7:0 (R96). -/
  | regWinY1L
  /-- Window `y1` bits 15:8 (R96). -/
  | regWinY1H
  /-- Cursor `x` bits 7:0 (R96). -/
  | regCurXL
  /-- Cursor `x` bits 15:8 (R96). -/
  | regCurXH
  /-- Cursor `y` bits 7:0 (R96). -/
  | regCurYL
  /-- Cursor `y` bits 15:8 (R96). -/
  | regCurYH
  /-- The "prepare RAM write" command (R96, R132). -/
  | regMrw
  /-- The foreground colour register (R96, R102). -/
  | regFgColor
  deriving DecidableEq, Repr

end Sys2Proof
end

