-- ==== Sys2Proof/WellFormed.lean ====
section
/-! DEFINITION. Which instructions an encoding can express: the operand bounds of the request descriptor
(30_encoding.md R104, R105) and of the model's own operand bytes for the operation numbers (log entry 5). -/

namespace Sys2Proof

/-- The declared payload length of a descriptor, `plen = H6*65536 + H7` (R104). -/
def Descriptor.plen (d : Descriptor) : Nat := d.h6.toNat * 65536 + d.h7.toNat

/-- The producer delivers exactly `plen` payload bytes (R105, the host duty R245 (b)); no condition on a `SUBMIT`, which
has a meaning without it (log entry 24). -/
def Descriptor.wf (d : Descriptor) : Bool := d.payload.length == d.plen

/-- An instruction is well formed when its encoding can hold its operands: a payload of fewer than `2^32` bytes
(R105), a port number of 16 bits, attach operands of 32, 32, 64 and 64 bits (log entry 5). -/
def Instr.wf : Instr → Bool
  | .blit _ _ _ _ bytes => bytes.length < 2 ^ 32
  | .fillrect _ _ _ _ _ payload => payload.length < 2 ^ 32
  | .textrun _ _ _ bytes => bytes.length < 2 ^ 32
  | .acq k => k < 2 ^ 16
  | .submit k _ => k < 2 ^ 16
  | .attach w h fbBase fbSize => w < 2 ^ 32 && h < 2 ^ 32 && fbBase < 2 ^ 64 && fbSize < 2 ^ 64
  | .wcmd _ | .wdat _ | .rdat | .setcur _ _ | .setwin _ _ _ _ | .beginwr | .irq | .mirror | .copyframe
  | .tryacq | .rel | .initseq | .detach
  | .regWinX0L | .regWinX0H | .regWinY0L | .regWinY0H | .regWinX1L | .regWinX1H | .regWinY1L | .regWinY1H
  | .regCurXL | .regCurXH | .regCurYL | .regCurYH | .regMrw | .regFgColor => true

end Sys2Proof
end

