-- ==== Sys2Proof/Decode.lean ====
section
/-! DEFINITION. The decoders of 30_encoding.md R90 (bus words, chip register addresses, request descriptors, and
operation numbers with their operands), total on any bytes and refusing by name; the encoder, from the same
tables; and `decodeTableWord` over the words of spec/opcode_table.json. -/

namespace Sys2Proof

/-- Why the decoder refuses bytes as an instruction (30_encoding.md R90 to R111). -/
inductive DecodeError where
  /-- There are too few or too many bytes for the format or for the operation's operands (R110). -/
  | badLength
  /-- Bits above the 17 bits of a bus word or the 5 bits of an operation number are not 0 (R91, R111). -/
  | reservedBits
  /-- Operation numbers 19 to 31 are unused (R111). -/
  | unusedOpNumber (n : Nat)
  /-- No register of R96 has this address in the opcode table. -/
  | unknownChipRegister (a : Half)
  /-- `H0` is none of the three request codes (R106). -/
  | illegalRequestCode (h0 : Half)
  /-- A must-be-zero field of a request header is not 0 (R106). -/
  | mustBeZero
  /-- The payload is not the `plen` bytes the header declares (R105). -/
  | payloadLength
  deriving DecidableEq, Repr

/-- A 16-bit word from its two bytes, the high byte first (R71, R104). -/
def half (hi lo : Byte) : Half := hi ++ lo

/-- Bits 15:8 of a 16-bit word. -/
def hiByte (v : Half) : Byte := v.extractLsb' 8 8

/-- Bits 7:0 of a 16-bit word. -/
def loByte (v : Half) : Byte := v.extractLsb' 0 8

/-- The two bytes of a 16-bit word, the high byte first (R104). -/
def halfBytes (v : Half) : List Byte := [hiByte v, loByte v]

/-- The low `k` bytes of a number, the most significant first. -/
def natBytes : Nat → Nat → List Byte
  | 0, _ => []
  | k + 1, n => BitVec.ofNat 8 (n / 256 ^ k) :: natBytes k n

/-- The number whose bytes these are, the most significant first. -/
def bytesNat (bs : List Byte) : Nat := bs.foldl (fun n b => n * 256 + b.toNat) 0

/-- A bus word in three bytes (R91): bit 16 in the first, the 16-bit value in the other two. -/
def decodeBus : List Byte → Except DecodeError Instr
  | [s, hi, lo] =>
    match s.toNat with
    | 0 => .ok (.wcmd (half hi lo))
    | 1 => .ok (.wdat (half hi lo))
    | _ => .error .reservedBits
  | _ => .error .badLength

/-- A chip register address of R96, in two bytes. -/
def decodeChipReg : List Byte → Except DecodeError Instr
  | [hi, lo] =>
    match (half hi lo).toNat with
    | 0x30 => .ok .regWinX0L
    | 0x31 => .ok .regWinX0H
    | 0x32 => .ok .regWinY0L
    | 0x33 => .ok .regWinY0H
    | 0x34 => .ok .regWinX1L
    | 0x35 => .ok .regWinX1H
    | 0x36 => .ok .regWinY1L
    | 0x37 => .ok .regWinY1H
    | 0x46 => .ok .regCurXL
    | 0x47 => .ok .regCurXH
    | 0x48 => .ok .regCurYL
    | 0x49 => .ok .regCurYH
    | 0x02 => .ok .regMrw
    | 0x63 => .ok .regFgColor
    | _ => .error (.unknownChipRegister (half hi lo))
  | _ => .error .badLength

/-- The serialised descriptor: eight big-endian words, `H0` first, then the payload (R104). -/
def decodeDescriptor : List Byte → Option Descriptor
  | a :: b :: c :: d :: e :: f :: g :: h :: i :: j :: k :: l :: m :: n :: o :: p :: payload =>
    some ⟨half a b, half c d, half e f, half g h, half i j, half k l, half m n, half o p, payload⟩
  | _ => none

/-- The request a descriptor stands for (R105); undecodable ones are named (R106). -/
def decodeRequest (d : Descriptor) : Except DecodeError Request :=
  match d.h0.toNat with
  | 1 =>
    if d.h5 = 0 then .ok (.blit d.h1 d.h2 d.h3 d.h4 (d.payload.take d.plen)) else .error .mustBeZero
  | 2 => .ok (.fillrect d.h1 d.h2 d.h3 d.h4 d.h5 d.plen)
  | 3 =>
    if d.h4 = 0 ∧ d.h5 = 0 then .ok (.textrun d.h1 d.h2 d.h3 (d.payload.take d.plen)) else .error .mustBeZero
  | _ => .error (.illegalRequestCode d.h0)

/-- The drawing operation a serialised descriptor stands for; its payload must be complete (R105). -/
def decodeReq (bs : List Byte) : Except DecodeError Instr :=
  match decodeDescriptor bs with
  | none => .error .badLength
  | some d =>
    match decodeRequest d with
    | .error e => .error e
    | .ok r =>
      if d.wf then
        match r with
        | .blit x0 y0 w h bytes => .ok (.blit x0 y0 w h bytes)
        | .fillrect x0 x1 y0 y1 c _ => .ok (.fillrect x0 x1 y0 y1 c d.payload)
        | .textrun x y c bytes => .ok (.textrun x y c bytes)
      else .error .payloadLength

/-- Operations without operands: nothing may follow the operation number. -/
def noOperands (i : Instr) : List Byte → Except DecodeError Instr
  | [] => .ok i
  | _ => .error .badLength

/-- The operand of `WCMD` or `WDAT`, one 16-bit word, behind its number. -/
def decodeWordOperand (f : Half → Instr) : List Byte → Except DecodeError Instr
  | [a, b] => .ok (f (half a b))
  | _ => .error .badLength

/-- The operands of `FILLRECT` behind its number: `x0`, `x1`, `y0`, `y1`, `c`, and what is declared beyond them. -/
def decodeFillrect : List Byte → Except DecodeError Instr
  | a :: b :: c :: d :: e :: f :: g :: h :: i :: j :: payload =>
    .ok (.fillrect (half a b) (half c d) (half e f) (half g h) (half i j) payload)
  | _ => .error .badLength

/-- The operands of `BLIT` behind its number: `x0`, `y0`, `w`, `h`, and the payload. -/
def decodeBlit : List Byte → Except DecodeError Instr
  | a :: b :: c :: d :: e :: f :: g :: h :: payload =>
    .ok (.blit (half a b) (half c d) (half e f) (half g h) payload)
  | _ => .error .badLength

/-- The operands of `TEXTRUN` behind its number: `x`, `y`, `c`, and the payload. -/
def decodeTextrun : List Byte → Except DecodeError Instr
  | a :: b :: c :: d :: e :: f :: payload => .ok (.textrun (half a b) (half c d) (half e f) payload)
  | _ => .error .badLength

/-- The operands of `SETCUR`: `x`, `y`. -/
def decodeSetcur : List Byte → Except DecodeError Instr
  | [a, b, c, d] => .ok (.setcur (half a b) (half c d))
  | _ => .error .badLength

/-- The operands of `SETWIN`: `x0`, `x1`, `y0`, `y1`. -/
def decodeSetwin : List Byte → Except DecodeError Instr
  | [a, b, c, d, e, f, g, h] => .ok (.setwin (half a b) (half c d) (half e f) (half g h))
  | _ => .error .badLength

/-- The operand of `ACQ`: the foreground agent. -/
def decodeAcq : List Byte → Except DecodeError Instr
  | [a, b] => .ok (.acq (half a b).toNat)
  | _ => .error .badLength

/-- The operands of `SUBMIT`: the port and the serialised descriptor, with whatever payload its producer delivers: that
it is `plen` bytes is a duty nobody checks (R105, R245 (b)). What a breach of it does is a DESIGN CHOICE of the model
(log entry 24). -/
def decodeSubmit : List Byte → Except DecodeError Instr
  | a :: b :: rest =>
    match decodeDescriptor rest with
    | some d => .ok (.submit (half a b).toNat d)
    | none => .error .badLength
  | _ => .error .badLength

/-- The operands of `ATTACH`: `W` and `H` in four bytes each, `FB_BASE` and the FrameBuffer's size in eight. -/
def decodeAttach (bs : List Byte) : Except DecodeError Instr :=
  if bs.length = 24 then
    .ok (.attach (bytesNat (bs.take 4)) (bytesNat ((bs.drop 4).take 4)) (bytesNat ((bs.drop 8).take 8))
      (bytesNat (bs.drop 16)))
  else .error .badLength

/-- The operation numbers of R111; a chip register row has none. -/
def opNumber : Instr → Option Nat
  | .wcmd _ => some 0
  | .wdat _ => some 1
  | .rdat => some 2
  | .setcur _ _ => some 3
  | .setwin _ _ _ _ => some 4
  | .beginwr => some 5
  | .fillrect _ _ _ _ _ _ => some 6
  | .blit _ _ _ _ _ => some 7
  | .textrun _ _ _ _ => some 8
  | .irq => some 9
  | .mirror => some 10
  | .copyframe => some 11
  | .acq _ => some 12
  | .tryacq => some 13
  | .rel => some 14
  | .submit _ _ => some 15
  | .attach _ _ _ _ => some 16
  | .initseq => some 17
  | .detach => some 18
  | .regWinX0L | .regWinX0H | .regWinY0L | .regWinY0H | .regWinX1L | .regWinX1H | .regWinY1L | .regWinY1H
  | .regCurXL | .regCurXH | .regCurYL | .regCurYH | .regMrw | .regFgColor => none

/-- An operation number of R111 in one byte, then the operands in the model's own layout (log entry 5). The operations
with a bus word or a descriptor of their own (R91, R104) can be presented by number too. -/
def decodeOpid : List Byte → Except DecodeError Instr
  | [] => .error .badLength
  | n :: ops =>
    match n.toNat with
    | 0 => decodeWordOperand .wcmd ops
    | 1 => decodeWordOperand .wdat ops
    | 2 => noOperands .rdat ops
    | 3 => decodeSetcur ops
    | 4 => decodeSetwin ops
    | 5 => noOperands .beginwr ops
    | 6 => decodeFillrect ops
    | 7 => decodeBlit ops
    | 8 => decodeTextrun ops
    | 9 => noOperands .irq ops
    | 10 => noOperands .mirror ops
    | 11 => noOperands .copyframe ops
    | 12 => decodeAcq ops
    | 13 => noOperands .tryacq ops
    | 14 => noOperands .rel ops
    | 15 => decodeSubmit ops
    | 16 => decodeAttach ops
    | 17 => noOperands .initseq ops
    | 18 => noOperands .detach ops
    | k => if 32 ≤ k then .error .reservedBits else .error (.unusedOpNumber k)

/-- The decoder: an instruction from its bytes in one of the four formats, or a refusal by name. -/
def decode : Format → List Byte → Except DecodeError Instr
  | .opid, bs => decodeOpid bs
  | .chipReg, bs => decodeChipReg bs
  | .bus, bs => decodeBus bs
  | .req, bs => decodeReq bs

/-! ### The encoder -/

/-- The serialised descriptor (R104). -/
def encodeDescriptor (d : Descriptor) : List Byte :=
  halfBytes d.h0 ++ halfBytes d.h1 ++ halfBytes d.h2 ++ halfBytes d.h3 ++ halfBytes d.h4 ++ halfBytes d.h5
    ++ halfBytes d.h6 ++ halfBytes d.h7 ++ d.payload

/-- The descriptor of a request code, its five words and its payload, `plen` the payload's length (R104). -/
def descriptorOf (h0 h1 h2 h3 h4 h5 : Half) (payload : List Byte) : Descriptor :=
  ⟨h0, h1, h2, h3, h4, h5, BitVec.ofNat 16 (payload.length / 65536), BitVec.ofNat 16 payload.length, payload⟩

/-- A bus word: the select's byte, then the value (R91). -/
def encodeBus (sel : Byte) (v : Half) : Format × List Byte := (.bus, sel :: halfBytes v)

/-- An operation number and its operand bytes (R111, log entry 5). -/
def encodeOpid (n : Byte) (ops : List Byte) : Format × List Byte := (.opid, n :: ops)

/-- The address of a chip register (R96). -/
def encodeChipReg (a : Half) : Format × List Byte := (.chipReg, halfBytes a)

/-- The encoding of an instruction (R91, R96, R104, R111): the format and the bytes. -/
def encode : Instr → Format × List Byte
  | .wcmd a => encodeBus 0#8 a
  | .wdat v => encodeBus 1#8 v
  | .blit x0 y0 w h bytes => (.req, encodeDescriptor (descriptorOf 1#16 x0 y0 w h 0#16 bytes))
  | .fillrect x0 x1 y0 y1 c payload => (.req, encodeDescriptor (descriptorOf 2#16 x0 x1 y0 y1 c payload))
  | .textrun x y c bytes => (.req, encodeDescriptor (descriptorOf 3#16 x y c 0#16 0#16 bytes))
  | .rdat => encodeOpid 2#8 []
  | .setcur x y => encodeOpid 3#8 (halfBytes x ++ halfBytes y)
  | .setwin x0 x1 y0 y1 => encodeOpid 4#8 (halfBytes x0 ++ halfBytes x1 ++ halfBytes y0 ++ halfBytes y1)
  | .beginwr => encodeOpid 5#8 []
  | .irq => encodeOpid 9#8 []
  | .mirror => encodeOpid 10#8 []
  | .copyframe => encodeOpid 11#8 []
  | .acq k => encodeOpid 12#8 (natBytes 2 k)
  | .tryacq => encodeOpid 13#8 []
  | .rel => encodeOpid 14#8 []
  | .submit k d => encodeOpid 15#8 (natBytes 2 k ++ encodeDescriptor d)
  | .attach w h fbBase fbSize =>
    encodeOpid 16#8 (natBytes 4 w ++ natBytes 4 h ++ natBytes 8 fbBase ++ natBytes 8 fbSize)
  | .initseq => encodeOpid 17#8 []
  | .detach => encodeOpid 18#8 []
  | .regWinX0L => encodeChipReg 0x30#16
  | .regWinX0H => encodeChipReg 0x31#16
  | .regWinY0L => encodeChipReg 0x32#16
  | .regWinY0H => encodeChipReg 0x33#16
  | .regWinX1L => encodeChipReg 0x34#16
  | .regWinX1H => encodeChipReg 0x35#16
  | .regWinY1L => encodeChipReg 0x36#16
  | .regWinY1H => encodeChipReg 0x37#16
  | .regCurXL => encodeChipReg 0x46#16
  | .regCurXH => encodeChipReg 0x47#16
  | .regCurYL => encodeChipReg 0x48#16
  | .regCurYH => encodeChipReg 0x49#16
  | .regMrw => encodeChipReg 0x02#16
  | .regFgColor => encodeChipReg 0x63#16

/-! ### The words of spec/opcode_table.json -/

/-- How many operand bytes follow an operation number (log entry 5). -/
def operandBytes : Nat → Nat
  | 0 => 2
  | 1 => 2
  | 3 => 4
  | 4 => 8
  | 6 => 10
  | 7 => 8
  | 8 => 6
  | 12 => 2
  | 15 => 18
  | 16 => 24
  | _ => 0

/-- An instruction of the opcode table whose bits are `w`, laid out as its format stores them; the operand bytes
the table gives no bits are zero. A row's format shows in its width: 5 bits in one byte, 16 in two, 17 in three,
128 in sixteen. -/
def tableFrame (nbits w : Nat) : Option (Format × List Byte) :=
  if nbits ≤ 8 then
    if w < 2 ^ 8 then some (.opid, natBytes 1 w ++ List.replicate (operandBytes w) 0) else none
  else if nbits ≤ 16 then
    if w < 2 ^ 16 then some (.chipReg, natBytes 2 w) else none
  else if nbits ≤ 24 then
    if w < 2 ^ 24 then some (.bus, natBytes 3 w) else none
  else if nbits = 128 then
    if w < 2 ^ 128 then some (.req, natBytes 16 w ++ List.replicate (w % 2 ^ 32) 0) else none
  else none

/-- The instruction the decoder reads from a word of the opcode table. -/
def decodeTableWord (nbits w : Nat) : Option Instr :=
  match tableFrame nbits w with
  | none => none
  | some (f, bs) =>
    match decode f bs with
    | .ok i => some i
    | .error _ => none

end Sys2Proof
end

