-- ==== Sys2Proof/Config.lean ====
section
/-! DEFINITION. What an implementation fixes (00_scope.md R6) and the values the spec leaves open.
The parameters are one record of plain data, held by the state and written by no step (log entry 4); the free
values are constants without a body, so that no proof can rest on what they are (60_exceptions.md R230). -/

namespace Sys2Proof

/-- One tuple `(register, value, post-delay)` of `INIT_TABLE` (45_lifecycle.md R196). The delay's unit is OPEN
and the wait is a no-op of the model (R201, D32). -/
structure InitEntry where
  reg : Half
  value : Half
  postDelay : Nat
  deriving DecidableEq, Repr

/-- One write of a foreground colour sequence: register `reg` gets the field of the colour that lies `shift`
bits up and is kept by `mask` (30_encoding.md R102). -/
structure ColorField where
  reg : Half
  shift : Nat
  mask : Half
  deriving DecidableEq, Repr

/-- `FG_COLOR_SEQ : u16 → list of (register, value)` as plain data (R102, D6, log entry 23): a list of bit
fields of the colour, or any other sequence, named by a number. -/
inductive ColorSeq where
  | fields (l : List ColorField)
  | other (n : Nat)
  deriving DecidableEq, Repr

/-- The parameters of the block that the spec leaves OPEN or decides with a name (R6). `NUM_FG` is the number
of foreground agents the state holds; `W`, `H` and `FB_BASE` arrive with `ATTACH`; `SB_BASE` is a free value. -/
structure Params where
  regWinX0L : Half
  regWinX0H : Half
  regWinY0L : Half
  regWinY0H : Half
  regWinX1L : Half
  regWinX1H : Half
  regWinY1L : Half
  regWinY1H : Half
  /-- `REG_MRW`, the "prepare RAM write" command code (D5). -/
  regMrw : Half
  /-- `REG_FG_COLOR`, the foreground colour register (D6). -/
  regFgColor : Half
  /-- `FG_COLOR_SEQ` (D6). -/
  fgColorSeq : ColorSeq
  /-- `INIT_TABLE` (D19). -/
  initTable : List InitEntry
  /-- `ARB_TIMEOUT`, in `Tick`s (D17). -/
  arbTimeout : Nat
  /-- `BLIT_RESTORE_WINDOW` (D9). -/
  blitRestoreWindow : Bool
  deriving DecidableEq, Repr

namespace Config

/-- The byte of host memory at an address the FrameBuffer's owner has not been seen to write (R38, R39). -/
opaque fbByte : Nat → Byte

/-- The value of `SEL` after the `ATTACH` numbered by the argument: unspecified (R39, U6). -/
opaque selAfterAttach : Nat → Half

/-- The value of `SHD` after the `ATTACH` numbered by the argument: unspecified (R39, U6). -/
opaque shdAfterAttach : Nat → Half

/-- What `RDAT` returns while `shd_valid = 0`, a fresh draw for each argument (R122, R230, U4). -/
opaque rdatUnspecified : Nat → Half

/-- The address at which the `ATTACH` numbered by the argument allocates the StagingBuffer: OPEN (R6, R195). -/
opaque sbBase : Nat → Nat

/-- A foreground colour sequence that is no list of bit fields (R102, log entry 23). -/
opaque fgColorSeq : Nat → Half → List (Half × Half)

end Config

end Sys2Proof
end

