-- ==== Sys2Proof/Machine/Parameters.lean ====
section
/-! DEFINITION. The parameter values of the spec (00_scope.md R6, 30_encoding.md R96): the cursor addresses and
constants the source fixes, the constraints on the rest, and the defaults used in every example. -/

namespace Sys2Proof.Machine

/-- `REG_CUR_X_L` (R96, from the source). -/
def regCurXL : Half := 0x46#16
/-- `REG_CUR_X_H` (R96, from the source). -/
def regCurXH : Half := 0x47#16
/-- `REG_CUR_Y_L` (R96, from the source). -/
def regCurYL : Half := 0x48#16
/-- `REG_CUR_Y_H` (R96, from the source). -/
def regCurYH : Half := 0x49#16

/-- The four cursor registers (R67). -/
def cursorRegs : List Half := [regCurXL, regCurXH, regCurYL, regCurYH]

/-- The eight window registers, in the order of their addresses in the default assignment (R96). -/
def windowRegs (p : Params) : List Half :=
  [p.regWinX0L, p.regWinX0H, p.regWinY0L, p.regWinY0H, p.regWinX1L, p.regWinX1H, p.regWinY1L, p.regWinY1H]

/-- The addresses `0x30`..`0x37` of the window registers (R67). -/
def windowAddresses : List Half :=
  [0x30#16, 0x31#16, 0x32#16, 0x33#16, 0x34#16, 0x35#16, 0x36#16, 0x37#16]

/-- The constraints on the parameters: `REG_WIN_*` is a permutation of `0x30`..`0x37` (R96), and `REG_MRW` is no
window and no cursor register (DEDUCED, log entry 4: a command code that selects one of them would make the
window-set sequence a pixel burst). -/
def paramsWf (p : Params) : Bool :=
  (windowRegs p).isPerm windowAddresses && !(windowAddresses ++ cursorRegs).contains p.regMrw

/-- The defaults of the spec's examples (95_test_vectors.md, conventions): the window assignment of R96 (G1),
`REG_MRW = 0x0002` (G2), `REG_FG_COLOR = 0x0063` and one write to it (G3), an empty `INIT_TABLE`, restoring
blits (D9). PRESUMED where the spec marks general knowledge (log entry 4); `ARB_TIMEOUT = 1` is a
DESIGN CHOICE (log entry 4). -/
def defaultParams : Params where
  regWinX0L := 0x30#16
  regWinX0H := 0x31#16
  regWinY0L := 0x32#16
  regWinY0H := 0x33#16
  regWinX1L := 0x34#16
  regWinX1H := 0x35#16
  regWinY1L := 0x36#16
  regWinY1H := 0x37#16
  regMrw := 0x02#16
  regFgColor := 0x63#16
  fgColorSeq := .fields [⟨0x63#16, 0, 0xFFFF#16⟩]
  initTable := []
  arbTimeout := 1
  blitRestoreWindow := true

/-- The number of foreground agents at power-on; `NUM_FG` is OPEN, "1 or 2 in the examples" (R6, D34).
DESIGN CHOICE (log entry 4). -/
def defaultNumFg : Nat := 2

end Sys2Proof.Machine
end

