-- ==== Sys2Proof/Machine/State.lean ====
section
/-! DEFINITION. The state of the block (10_state.md), of the environment model the spec gives beside it
(20_memory.md R70, 10_state.md R33), and the observation (00_scope.md R13), all as plain data; the reasons a
step can stop; the machine after power-on. -/

namespace Sys2Proof.Machine

/-- A sparse map from numbers to values: entries in strictly rising order of the key. A key that is not listed
has no value (log entry 10). -/
abbrev Sparse (α : Type) := List (Nat × α)

/-- A byte memory: `Host.Cell`s in the canonical form of `Sparse`. -/
abbrev Memory := Sparse Byte

/-- The two selects of the LIDD bus (30_encoding.md R91). -/
inductive Sel where
  | cmd
  | dat
  deriving DecidableEq, Repr

/-- What one bus transaction carries: a select and a 16-bit value (R91). -/
structure BusWord where
  sel : Sel
  value : Half
  deriving DecidableEq, Repr

/-- The results and their names (60_exceptions.md R210). `syncLoss` is never returned to a caller (R217). -/
inductive Result where
  | ok
  | busFault
  | sizeMismatch
  | syncLoss
  | arbitrationTimeout
  | illegal
  deriving DecidableEq, Repr

/-- The host-side events of the trace `E` (00_scope.md R8, R11): the handler's three, and the completion of a request
as its caller sees it, with the port (log entry 19). -/
inductive HostEvent where
  | statusRead (v : Word)
  | statusAck (v : Word)
  | engineStart
  | completion (k : Nat) (res : Result)
  deriving DecidableEq, Repr

/-- A request slot of a foreground agent (10_state.md R35). -/
inductive Slot where
  | empty
  | waiting (r : Request) (t : Nat)
  | running (r : Request)
  | done (res : Result)
  deriving DecidableEq, Repr

/-- A foreground agent: its slot (R35) and its sequencer position (R26). -/
structure Fg where
  slot : Slot
  seqPc : Nat
  deriving DecidableEq, Repr

/-- The RequestArbiter state (R28). -/
inductive Gate where
  | free
  | heldFG (k : Nat)
  | heldIRQ
  deriving DecidableEq, Repr

/-- The MirrorPipeline state (R27). -/
inductive Mirror where
  | idle
  | mirroring
  deriving DecidableEq, Repr

/-- The device state (R25). -/
inductive Dev where
  | detached
  | attached
  deriving DecidableEq, Repr

/-- Where the interrupt handler stands (43_mirrorpipeline.md R161), one constructor per point between two of
its atomic steps: outside the handler; about to acknowledge the status it read; about to decide on it; about to
try the gate; in the mirror cycle (log entry 12). -/
inductive Handler where
  | idle
  | ack (s : Word)
  | decide (s : Word)
  | tryAcq
  | cycle
  deriving DecidableEq, Repr

/-- What the gate guards (44_requestarbiter.md R180): the eight data registers of R20, the valid bits of R22 and
R23, and the tracking flags of R24. -/
structure Ctl where
  curX : Half
  curY : Half
  winX0 : Half
  winX1 : Half
  winY0 : Half
  winY1 : Half
  sel : Half
  shd : Half
  selValid : Bool
  shdValid : Bool
  winValid : Bool
  curValid : Bool
  writeArmed : Bool
  deriving DecidableEq, Repr

/-- A rectangle of display cells, both corners included. -/
structure Rect where
  x0 : Nat
  x1 : Nat
  y0 : Nat
  y1 : Nat
  deriving DecidableEq, Repr

/-- Which cursor registers of the chip have been written since its last window change (20_memory.md R70). -/
structure CursorSeen where
  xl : Bool
  xh : Bool
  yl : Bool
  yh : Bool
  deriving DecidableEq, Repr

/-- The reference chip of 20_memory.md R70: selected register, register file, window, pointer and display
memory, each unknown where nothing has fixed it. `vram` is keyed by `x + 65536 * y`. `engineTraffic`, the model's own
(log entry 18), says that a transaction came while the engine might be streaming (R256) and no window-set sequence has
begun with the engine idle since: what the pixels show is then unspecified. -/
structure Chip where
  csel : Option Half
  creg : Sparse Half
  window : Option Rect
  pointer : Option (Nat × Nat)
  cursorSeen : CursorSeen
  vram : Sparse Half
  engineTraffic : Bool
  deriving DecidableEq, Repr

/-- What moves next, other than an operation presented in its encoding: an agent takes its next step, or the
environment does something (log entry 1). The spec fixes no schedule (00_scope.md R12). -/
inductive Move where
  /-- The interrupt-context agent takes its next step (R161). -/
  | irqa
  /-- Foreground agent `k` takes its next step (R184). -/
  | fg (k : Nat)
  /-- The host, waiting in `DETACH`, tries again (R198). -/
  | host
  /-- The caller on port `k` takes its result (R184 step 8). -/
  | take (k : Nat)
  /-- One `Tick` of the foreground wait (R185). -/
  | tick
  /-- The hardware behind the host status register shows a new value (R33). -/
  | status (v : Word)
  /-- The bus answers `n` more transactions with `Ok` and the next with `Fault`; `none`: all with `Ok` (R211). -/
  | busPlan (n : Option Nat)
  /-- The FrameBuffer's owner writes the byte of host memory at an address (R64). -/
  | fbWrite (a : Nat) (b : Byte)
  /-- An out-of-process producer writes a byte of the StagingBuffer (R64). -/
  | sbWrite (i : Nat) (b : Byte)
  deriving DecidableEq, Repr

/-- One entry of the machine's input: an operation in its encoding (R90), or a move. -/
inductive Event where
  | op (f : Format) (bytes : List Byte)
  | move (m : Move)
  deriving DecidableEq, Repr

/-- The machine's state. -/
structure State where
  /-- The parameters (R6); no step writes them. -/
  cfg : Params
  /-- The environment's and the schedule's remaining moves (log entry 1). -/
  input : List Event
  /-- The bus's answers to come (R211, log entry 2). -/
  busPlan : Option Nat
  /-- The host status register (R33, log entry 3). -/
  hostStatus : Word
  /-- The data registers and tracking flags (R20 to R24). -/
  ctl : Ctl
  /-- `dev` (R25). -/
  dev : Dev
  /-- `unusable` (R25). -/
  unusable : Bool
  /-- `ATTACH` is under way and `INITSEQ` has not run (R195, R196, log entry 21). -/
  initDue : Bool
  /-- A `DETACH` waits for the holder to release (R198, log entry 17). -/
  detachPending : Bool
  /-- `W` (R32). -/
  width : Nat
  /-- `H` (R32). -/
  height : Nat
  /-- `FB_BASE` (R32). -/
  fbBase : Nat
  /-- `SB_BASE` (R32). -/
  sbBase : Nat
  /-- `gate` (R28). -/
  gate : Gate
  /-- `mirror` (R27). -/
  mirror : Mirror
  /-- Where `IRQA` stands in its handler (R161). -/
  handler : Handler
  /-- `irq_pending` (R29). -/
  irqPending : Bool
  /-- `seq_pc[IRQA]` (R26). -/
  irqSeqPc : Nat
  /-- `engine_active` (R31). -/
  engineActive : Bool
  /-- `mirror_count` (R30). -/
  mirrorCount : Word
  /-- `fault_count` (R30). -/
  faultCount : Word
  /-- The foreground agents, `NUM_FG` of them (R35). -/
  fgs : List Fg
  /-- Host memory, in which the FrameBuffer lies from `FB_BASE` on (R61, log entry 11). -/
  fb : Memory
  /-- The StagingBuffer, by byte offset (R62). -/
  sb : Memory
  /-- The reference chip (R70). -/
  chip : Chip
  /-- The trace `T` of delivered transactions, earliest first (R13). -/
  trace : List BusWord
  /-- The trace `E` of host-side events, earliest first (R13). -/
  events : List HostEvent
  /-- The results taken by callers, with their ports, earliest first (R13). -/
  returned : List (Nat × Result)
  /-- The value the last `RDAT` returned (R122). -/
  rdatValue : Half
  /-- The MODEL's own counter of free values drawn (log entry 8). -/
  freeCtr : Nat
  deriving DecidableEq, Repr

/-- Why the machine stops. Every one of these is an operation used where the spec has no such step (45_lifecycle.md
R202, 93_implementation_defined.md U18), and each is safe: the model goes no further than the spec does. -/
inductive Fault where
  /-- Raised by the operations of R180 and by the drawing operations while nobody holds the gate (R123). Safe. -/
  | notHolder
  /-- Raised by an operation that needs an attached device while `dev = Detached` (U18, R200). Safe. -/
  | notAttached
  /-- Raised by `ATTACH` while `dev = Attached` (U18). Safe. -/
  | alreadyAttached
  /-- Raised by `INITSEQ` outside `ATTACH` (R196, R202). Safe. -/
  | notAttaching
  /-- Raised by a drawing operation that is not the request the holder is running (R148, R202). Safe. -/
  | notRunning
  /-- Raised by `MIRROR` and `COPYFRAME` outside a mirror cycle (R164, R202). Safe. -/
  | notMirroring
  /-- Raised by `ACQ` of an agent whose slot holds no waiting request (R181). Safe. -/
  | notWaiting
  /-- Raised by `TRYACQ` where the interrupt handler does not stand at it (R161, R202). Safe. -/
  | notAcquiring
  /-- Raised by `REL` before the holder's last micro-step (R183, R149). Safe. -/
  | notComplete
  /-- Raised by `SUBMIT` on a port whose slot is not `Empty` (U18, R245 (c)). Safe. -/
  | slotNotEmpty
  /-- Raised by an operation that names a foreground port the block does not have (R35). Safe. -/
  | noSuchPort
  /-- Raised by a producer's write to a StagingBuffer byte that does not exist (R60, R62). Safe. -/
  | noSuchByte
  deriving DecidableEq, Repr

/-- Why the machine has no meaning for what is presented to it. -/
inductive Refusal where
  /-- Raised by `exec` for an instruction that has no meaning yet. Safe. -/
  | notModelled (mnemonic : String)
  /-- Raised by the step where the bytes presented decode to no instruction (R106, R110, R111). Safe. -/
  | undecodable (e : DecodeError)
  deriving DecidableEq, Repr

/-- The registers and flags while nothing of the device exists (10_state.md R25, R39): all zero.
DESIGN CHOICE (log entry 7). -/
def powerOnCtl : Ctl :=
  ⟨0, 0, 0, 0, 0, 0, 0, 0, false, false, false, false, false⟩

/-- The reference chip of which nothing is known: before the block first writes to it, and after a BusFault (R37, R39,
U7). -/
def unknownChip : Chip :=
  ⟨none, [], none, none, ⟨false, false, false, false⟩, [], false⟩

/-- The machine after power-on (R39, R240): `dev = Detached` and nothing else has a value in the spec; the model's
values are those of log entry 7. -/
def State.reset : State where
  cfg := defaultParams
  input := []
  busPlan := none
  hostStatus := 0
  ctl := powerOnCtl
  dev := .detached
  unusable := false
  initDue := false
  detachPending := false
  width := 0
  height := 0
  fbBase := 0
  sbBase := 0
  gate := .free
  mirror := .idle
  handler := .idle
  irqPending := false
  irqSeqPc := 0
  engineActive := false
  mirrorCount := 0
  faultCount := 0
  fgs := List.replicate defaultNumFg ⟨.empty, 0⟩
  fb := []
  sb := []
  chip := unknownChip
  trace := []
  events := []
  returned := []
  rdatValue := 0
  freeCtr := 0

end Sys2Proof.Machine
end

