-- ==== Sys2Proof/Machine/Memory.lean ====
section
/-! DEFINITION. Reading and writing the sparse maps of the state (20_memory.md R60 to R64): one entry per key,
keys strictly rising, an unlisted key without a value. -/

namespace Sys2Proof.Machine

/-- The value at a key, none where nothing has written it. -/
def sparseRead {α : Type} (k : Nat) : Sparse α → Option α
  | [] => none
  | (a, v) :: m => if a = k then some v else sparseRead k m

/-- Write the value at a key, keeping the keys in rising order. -/
def sparseWrite {α : Type} (k : Nat) (v : α) : Sparse α → Sparse α
  | [] => [(k, v)]
  | (a, w) :: m =>
    if k < a then (k, v) :: (a, w) :: m
    else if a = k then (k, v) :: m
    else (a, w) :: sparseWrite k v m

/-- The keys rise strictly, and the first is at least `lo`. -/
def sparseFrom {α : Type} (lo : Nat) : Sparse α → Bool
  | [] => true
  | (a, _) :: m => decide (lo ≤ a) && sparseFrom (a + 1) m

/-- The canonical form of a sparse map: strictly rising keys (no entry equals what an unlisted key reads as,
because an unlisted key has no value). -/
def sparseWf {α : Type} (m : Sparse α) : Bool := sparseFrom 0 m

/-- The canonical form of a memory. -/
def Memory.wf (m : Memory) : Bool := sparseWf m

/-- `FB_SIZE = SB_SIZE = W*H*2` (R6, R62). -/
def frameSize (s : State) : Nat := s.width * s.height * 2

/-- The byte of host memory at an address: what its owner last wrote, else an unknown byte (R38, log entry 10). -/
def hostByte (s : State) (a : Nat) : Byte := (sparseRead a s.fb).getD (Config.fbByte a)

/-- `MemRead(FB, i, 1)`: the FrameBuffer byte at offset `i`, at address `FB_BASE + i` (R8, R174). -/
def fbRead (s : State) (i : Nat) : Byte := hostByte s (s.fbBase + i)

/-- `MemWrite(SB, i, 1, b)` (R8). -/
def sbWrite (s : State) (i : Nat) (b : Byte) : State := { s with sb := sparseWrite i b s.sb }

/-- The StagingBuffer byte at offset `i`; none while it is unspecified (R39, R230). -/
def sbRead (s : State) (i : Nat) : Option Byte := sparseRead i s.sb

end Sys2Proof.Machine
end

