-- ==== Sys2Proof/Machine/Flags.lean ====
section
/-! DEFINITION. Every flag the spec computes: the tracking flags of 10_state.md R24 and the valid bits of R22 and
R23, with the registers written beside them, the classification of the host status
(30_encoding.md R103), and the codes of the results (60_exceptions.md R210). -/

namespace Sys2Proof.Machine

/-- What a micro-step records beside its transaction: the bookkeeping lines of `SETWIN` (R131), `SETCUR` (R130)
and `BEGINWR` (R132). -/
inductive Mark where
  | none
  /-- The first micro-step of a `SETWIN`: `win_valid` and `cur_valid` go to 0. -/
  | windowOpens
  /-- The last micro-step of a `SETWIN`: `WIN_*` are written and `win_valid` goes to 1. -/
  | windowSet (x0 x1 y0 y1 : Half)
  /-- The first micro-step of a `SETCUR`: `cur_valid` goes to 0. -/
  | cursorOpens
  /-- The last micro-step of a `SETCUR`: `CUR_*` are written and `cur_valid` goes to 1. -/
  | cursorSet (x y : Half)
  /-- `BEGINWR` delivered: `write_armed` goes to 1. -/
  | armed
  deriving DecidableEq, Repr

/-- The bookkeeping of a mark on the registers and flags. -/
def markCtl (m : Mark) (c : Ctl) : Ctl :=
  match m with
  | .none => c
  | .windowOpens => { c with winValid := false, curValid := false }
  | .windowSet x0 x1 y0 y1 => { c with winX0 := x0, winX1 := x1, winY0 := y0, winY1 := y1, winValid := true }
  | .cursorOpens => { c with curValid := false }
  | .cursorSet x y => { c with curX := x, curY := y, curValid := true }
  | .armed => { c with writeArmed := true }

/-- The registers and flags after a delivered `WCMD a` (R120). -/
def cmdCtl (p : Params) (a : Half) (c : Ctl) : Ctl :=
  { c with sel := a, selValid := true, writeArmed := c.writeArmed && a == p.regMrw }

/-- The registers and flags after a delivered `WDAT v` (R121). -/
def datCtl (v : Half) (c : Ctl) : Ctl :=
  { c with shd := v, shdValid := true, curValid := c.curValid && !c.writeArmed }

/-- The registers and flags after a delivered transaction. -/
def wordCtl (p : Params) (w : BusWord) (c : Ctl) : Ctl :=
  match w.sel with
  | .cmd => cmdCtl p w.value c
  | .dat => datCtl w.value c

/-- The tracking flags after a `Fault`: the chip's state is no longer known (R24, R213). -/
def faultCtl (c : Ctl) : Ctl := { c with winValid := false, curValid := false, writeArmed := false }

/-- `class(s) = SyncLoss`: bit 2 or bit 5 of the status is set (R103, R162). -/
def syncLoss (v : Word) : Bool := v.getLsbD 2 || v.getLsbD 5

/-- A counter plus 1, modulo `2^32` (R30). -/
def countUp (n : Word) : Word := n + 1

/-- The numeric code of a result (R210). -/
def resultCode : Result → Nat
  | .ok => 0
  | .busFault => 1
  | .sizeMismatch => 2
  | .syncLoss => 3
  | .arbitrationTimeout => 4
  | .illegal => 5

end Sys2Proof.Machine
end

