-- ==== Sys2Proof/Machine/Operands.lean ====
section
/-! DEFINITION. How operands become bus words (30_encoding.md R94 to R102), the micro-step lists of every operation
(10_state.md R26), and the validation of requests (42_drawingprimitives.md R141, R143, R146). -/

namespace Sys2Proof.Machine

/-- A micro-step: one bus transaction with its bookkeeping before and after, one byte of the copy, or the restart
of the engine (R26). -/
inductive Micro where
  | bus (w : BusWord) (before after : Mark)
  | copyByte (i : Nat)
  | engineStart
  deriving DecidableEq, Repr

/-- `lo(c) = zext_16(c[7:0])` (R97). -/
def lo (c : Half) : Half := (loByte c).setWidth 16

/-- `hi(c) = zext_16(c[15:8])` (R97). -/
def hi (c : Half) : Half := (hiByte c).setWidth 16

/-- The bus word of `WCMD a` (R92). -/
def cmdWord (a : Half) : BusWord := ⟨.cmd, a⟩

/-- The bus word of `WDAT v` (R93). -/
def datWord (v : Half) : BusWord := ⟨.dat, v⟩

/-- A bus transaction that records nothing beside R120 and R121. -/
def plain (w : BusWord) : Micro := .bus w .none .none

/-- The pseudo-operation `REGW a, v` (R94). -/
def regw (a v : Half) : List Micro := [plain (cmdWord a), plain (datWord v)]

/-- The micro-steps of `SETCUR x, y` (R130). -/
def setcurSteps (x y : Half) : List Micro :=
  [.bus (cmdWord regCurXL) .cursorOpens .none, plain (datWord (lo x))]
    ++ regw regCurXH (hi x) ++ regw regCurYL (lo y)
    ++ [plain (cmdWord regCurYH), .bus (datWord (hi y)) .none (.cursorSet x y)]

/-- The micro-steps of `SETWIN x0, x1, y0, y1`, in the order of the arguments (R131, R98). -/
def setwinSteps (p : Params) (x0 x1 y0 y1 : Half) : List Micro :=
  [.bus (cmdWord p.regWinX0L) .windowOpens .none, plain (datWord (lo x0))]
    ++ regw p.regWinX0H (hi x0) ++ regw p.regWinX1L (lo x1) ++ regw p.regWinX1H (hi x1)
    ++ regw p.regWinY0L (lo y0) ++ regw p.regWinY0H (hi y0) ++ regw p.regWinY1L (lo y1)
    ++ [plain (cmdWord p.regWinY1H), .bus (datWord (hi y1)) .none (.windowSet x0 x1 y0 y1)]

/-- The micro-step of `BEGINWR` (R132). -/
def beginwrSteps (p : Params) : List Micro := [.bus (cmdWord p.regMrw) .none .armed]

/-- The last column or row of a screen that is `n` wide or high, as a coordinate (R133; R7 keeps it in range). -/
def lastCoord (n : Nat) : Half := BitVec.ofNat 16 (n - 1)

/-- `SETFULL` on a screen of `w` by `h` (R133). -/
def setfullSteps (p : Params) (w h : Nat) : List Micro := setwinSteps p 0 (lastCoord w) 0 (lastCoord h)

/-- A burst of data words (R95). -/
def burst (vs : List Half) : List Micro := vs.map fun v => plain (datWord v)

/-- The pixel count of a fill (R101). -/
def fillCount (x0 x1 y0 y1 : Half) : Nat := (x1.toNat - x0.toNat + 1) * (y1.toNat - y0.toNat + 1)

/-- The pixels of a blit payload: big-endian byte pairs (R99). -/
def pixels : List Byte → List Half
  | b0 :: b1 :: rest => half b0 b1 :: pixels rest
  | _ => []

/-- The data words of a text payload: `zext_16` of each byte (R100). -/
def textWords (bytes : List Byte) : List Half := bytes.map fun b => b.setWidth 16

/-- The last coordinate covered from `x0` over `w` cells, `x0 + w - 1` in `nat` (R101). -/
def spanEnd (x0 w : Half) : Nat := x0.toNat + w.toNat - 1

/-- `FG_COLOR_SEQ(c)` (R102). -/
def colorWrites (q : ColorSeq) (c : Half) : List (Half × Half) :=
  match q with
  | .fields l => l.map fun f => (f.reg, (c >>> f.shift) &&& f.mask)
  | .other n => Config.fgColorSeq n c

/-- The register writes that set the foreground colour (R145). -/
def colorSteps (p : Params) (c : Half) : List Micro := (colorWrites p.fgColorSeq c).flatMap fun w => regw w.1 w.2

/-- The micro-steps of `FILLRECT` (R140). -/
def fillrectSteps (p : Params) (w h : Nat) (x0 x1 y0 y1 c : Half) : List Micro :=
  setwinSteps p x0 x1 y0 y1 ++ setcurSteps x0 y0 ++ beginwrSteps p
    ++ burst (List.replicate (fillCount x0 x1 y0 y1) c) ++ setfullSteps p w h

/-- The micro-steps of `BLIT` (R142). -/
def blitSteps (p : Params) (w h : Nat) (x0 y0 bw bh : Half) (bytes : List Byte) : List Micro :=
  setwinSteps p x0 (BitVec.ofNat 16 (spanEnd x0 bw)) y0 (BitVec.ofNat 16 (spanEnd y0 bh)) ++ setcurSteps x0 y0
    ++ beginwrSteps p ++ burst (pixels bytes) ++ (if p.blitRestoreWindow then setfullSteps p w h else [])

/-- The micro-steps of `TEXTRUN` (R145). -/
def textrunSteps (p : Params) (x y c : Half) (bytes : List Byte) : List Micro :=
  colorSteps p c ++ setcurSteps x y ++ beginwrSteps p ++ burst (textWords bytes)

/-- The micro-steps of a request on a screen of `w` by `h` (R184 step 6). -/
def requestSteps (p : Params) (w h : Nat) : Request → List Micro
  | .blit x0 y0 bw bh bytes => blitSteps p w h x0 y0 bw bh bytes
  | .fillrect x0 x1 y0 y1 c _ => fillrectSteps p w h x0 x1 y0 y1 c
  | .textrun x y c bytes => textrunSteps p x y c bytes

/-- The micro-steps of `COPYFRAME`: every byte once, in ascending order (R165). -/
def copyframeSteps (w h : Nat) : List Micro := (List.range (w * h * 2)).map .copyByte

/-- The micro-steps of `MIRROR` (R166). -/
def mirrorSteps (p : Params) (w h : Nat) : List Micro :=
  copyframeSteps w h ++ setfullSteps p w h ++ setcurSteps 0 0 ++ beginwrSteps p ++ [.engineStart]

/-- The micro-steps of `INITSEQ`: the table in order, each wait a no-op (R196, R201). -/
def initseqSteps (p : Params) : List Micro := p.initTable.flatMap fun e => regw e.reg e.value

/-- Which requests are valid on a screen of `w` by `h`: `FILLRECT` by R141, `BLIT` by R143, `TEXTRUN` by R146;
all comparisons in `nat` (R10). -/
def validRequest (w h : Nat) : Request → Bool
  | .fillrect x0 x1 y0 y1 _ plen =>
    decide (x0.toNat ≤ x1.toNat ∧ x1.toNat ≤ w - 1 ∧ y0.toNat ≤ y1.toNat ∧ y1.toNat ≤ h - 1 ∧ plen = 0)
  | .blit x0 y0 bw bh bytes =>
    decide (bytes.length = bw.toNat * bh.toNat * 2 ∧ 1 ≤ bw.toNat ∧ 1 ≤ bh.toNat
      ∧ spanEnd x0 bw ≤ w - 1 ∧ spanEnd y0 bh ≤ h - 1)
  | .textrun x y _ _ => decide (x.toNat ≤ w - 1 ∧ y.toNat ≤ h - 1)

/-- The bus words a list of micro-steps sends, in order. -/
def busWords (ms : List Micro) : List BusWord :=
  ms.filterMap fun m => match m with
    | .bus w _ _ => some w
    | .copyByte _ => none
    | .engineStart => none

end Sys2Proof.Machine
end

