-- ==== Sys2Proof/Machine/ReferenceChip.lean ====
section
/-! DEFINITION. The reference environment model of the LCD controller chip (20_memory.md R70), which every delivered
transaction drives, and what the external engine does to the display (70_reset_and_hazards.md R256). -/

namespace Sys2Proof.Machine

/-- The key of display cell `(x, y)`; coordinates are below 65536 (R8). -/
def cellKey (x y : Nat) : Nat := x + 65536 * y

/-- What display cell `(x, y)` holds; none while it is undefined (R70). -/
def chipCell (c : Chip) (x y : Nat) : Option Half := sparseRead (cellKey x y) c.vram

/-- A 16-bit value from the low and the high chip register that hold its two bytes; none while either has not been
written (R96, R97). -/
def chipPair (c : Chip) (regL regH : Half) : Option Nat :=
  match sparseRead regL.toNat c.creg, sparseRead regH.toNat c.creg with
  | some l, some h => some ((loByte h).toNat * 256 + (loByte l).toNat)
  | _, _ => none

/-- The window assembled from the chip's registers; unknown until all eight have been written (R70, log entry 18). -/
def chipWindow (p : Params) (c : Chip) : Option Rect :=
  match chipPair c p.regWinX0L p.regWinX0H, chipPair c p.regWinX1L p.regWinX1H,
      chipPair c p.regWinY0L p.regWinY0H, chipPair c p.regWinY1L p.regWinY1H with
  | some x0, some x1, some y0, some y1 => some ⟨x0, x1, y0, y1⟩
  | _, _, _, _ => none

/-- The cursor registers written since the last window change, with `a` among them. -/
def seeCursor (a : Half) (q : CursorSeen) : CursorSeen :=
  ⟨q.xl || a == regCurXL, q.xh || a == regCurXH, q.yl || a == regCurYL, q.yh || a == regCurYH⟩

/-- The pointer assembled from the chip's registers; unknown until all four cursor registers have been written
since the last window change (R70). -/
def chipPointer (c : Chip) : Option (Nat × Nat) :=
  if c.cursorSeen.xl && c.cursorSeen.xh && c.cursorSeen.yl && c.cursorSeen.yh then
    match chipPair c regCurXL regCurXH, chipPair c regCurYL regCurYH with
    | some x, some y => some (x, y)
    | _, _ => none
  else none

/-- The pointer after one pixel: x first, then y, wrapping to the window's first cell (R70). -/
def advancePointer (r : Rect) (px py : Nat) : Nat × Nat :=
  if px < r.x1 then (px + 1, py)
  else (r.x0, if py < r.y1 then py + 1 else r.y0)

/-- Whether a cell lies in a window. -/
def insideRect (r : Rect) (px py : Nat) : Bool :=
  decide (r.x0 ≤ px ∧ px ≤ r.x1 ∧ r.y0 ≤ py ∧ py ≤ r.y1)

/-- The pointer is known, and not known to lie in the window (R66 item 6). -/
def pointerOutside (window : Option Rect) (pointer : Option (Nat × Nat)) : Bool :=
  match pointer, window with
  | none, _ => false
  | some _, none => true
  | some (px, py), some r => !insideRect r px py

/-- A pixel word: written at the pointer when window and pointer are known and the pointer lies inside, else every
display cell becomes undefined (R70, R66 items 5 and 6); undefined too in a burst that began among the engine's traffic
(R256, U10; log entry 18). -/
def chipPixel (v : Half) (c : Chip) : Chip :=
  match c.window, c.pointer with
  | some r, some (px, py) =>
    if insideRect r px py then
      { c with
        vram := if c.engineTraffic then [] else sparseWrite (cellKey px py) v c.vram
        pointer := some (advancePointer r px py) }
    else { c with vram := [] }
  | _, _ => { c with vram := [] }

/-- The cursor register `a` has been written: the pointer is assembled anew (R70), and every display cell becomes
undefined where it does not lie in the window (R66 item 6, U1; log entries 18 and 28). -/
def chipCursor (a : Half) (c : Chip) : Chip :=
  let c1 := { c with cursorSeen := seeCursor a c.cursorSeen }
  let pt := chipPointer c1
  { c1 with pointer := pt, vram := if pointerOutside c.window pt then [] else c.vram }

/-- A register value: stored, and the window or the pointer assembled anew where `a` is one of their registers
(R70). What any other register does to the display is unknown (R252, U3, U20; log entry 18). A window-set sequence
begins at `REG_WIN_X0_L` (R131), and with it a new burst. -/
def chipRegister (p : Params) (a v : Half) (c : Chip) : Chip :=
  let c1 := { c with
    creg := sparseWrite a.toNat v c.creg
    vram := if (windowRegs p ++ cursorRegs).contains a then c.vram else [] }
  let c2 :=
    if (windowRegs p).contains a then
      { c1 with
        window := chipWindow p c1
        pointer := none
        cursorSeen := ⟨false, false, false, false⟩
        engineTraffic := c1.engineTraffic && a != p.regWinX0L }
    else c1
  if cursorRegs.contains a then chipCursor a c2 else c2

/-- The reference chip after one delivered transaction (R70). -/
def chipDeliver (p : Params) (w : BusWord) (c : Chip) : Chip :=
  match w.sel with
  | .cmd => { c with csel := some w.value }
  | .dat =>
    match c.csel with
    | none => { c with vram := [] }
    | some a => if a == p.regMrw then chipPixel w.value c else chipRegister p a w.value c

/-- The reference chip once the external engine streams its burst into it: what the display holds and where the pointer
stands are unspecified (R69, R256; log entry 18). -/
def chipDisturb (c : Chip) : Chip := { c with vram := [], pointer := none }

/-- The reference chip after a transaction delivered while `engine_active` is as given: R70, and what the display holds
unspecified where the engine may be streaming (R256, U10; log entry 18). -/
def chipAfter (p : Params) (engineActive : Bool) (w : BusWord) (c : Chip) : Chip :=
  let d := chipDeliver p w c
  if engineActive then { d with vram := [], engineTraffic := true } else d

/-- The reference chip once `INITSEQ` is over: whatever `INIT_TABLE` wrote to its window and cursor registers, its window
and pointer count as unknown, because the block does not know them (R196, R253, U8; log entry 18). -/
def chipAfterInit (c : Chip) : Chip := { c with window := none, pointer := none }

/-- The reference chip after a list of delivered transactions. -/
def chipRun (p : Params) (engineActive : Bool) (ws : List BusWord) (c : Chip) : Chip :=
  ws.foldl (fun c w => chipAfter p engineActive w c) c

end Sys2Proof.Machine
end

