-- ==== Sys2Proof/Machine/Ops.lean ====
section
/-! DEFINITION. The named operations every meaning is built from: the slots and the gate, one bus transaction, taking
a BusFault (60_exceptions.md R213, R214, R197) and the completion that returns, running a micro-step list
(10_state.md R26), and taking the interrupt (43_mirrorpipeline.md R161). -/

namespace Sys2Proof.Machine

/-- The outcome of an instruction or of a step. -/
abbrev StepOutcome := Host.Outcome State Fault Refusal

/-! ### Slots and sequencer positions -/

/-- The slot of foreground agent `k`; none where the block has no such port (R35). -/
def slotOf (s : State) (k : Nat) : Option Slot := (s.fgs[k]?).map Fg.slot

/-- `seq_pc[k]` of a foreground agent (R26). -/
def seqPcOf (s : State) (k : Nat) : Nat := ((s.fgs[k]?).map Fg.seqPc).getD 0

/-- `slot[k] <- v`. -/
def setSlot (k : Nat) (v : Slot) (s : State) : State :=
  { s with fgs := s.fgs.modify k fun f => { f with slot := v } }

/-- `seq_pc[k] <- n`. -/
def setSeqPc (k n : Nat) (s : State) : State :=
  { s with fgs := s.fgs.modify k fun f => { f with seqPc := n } }

/-- A waiting request ends with BusFault; every other slot stays (R213, R214, R198). -/
def failSlot : Slot → Slot
  | .waiting _ _ => .done .busFault
  | v => v

/-- Every waiting request ends with BusFault (R215). -/
def failWaiting (s : State) : State := { s with fgs := s.fgs.map fun f => { f with slot := failSlot f.slot } }

/-- The holder's `seq_pc` counts one completed micro-step (R26). -/
def bumpSeq (s : State) : State :=
  match s.gate with
  | .free => s
  | .heldFG k => { s with fgs := s.fgs.modify k fun f => { f with seqPc := f.seqPc + 1 } }
  | .heldIRQ => { s with irqSeqPc := s.irqSeqPc + 1 }

/-! ### The gate -/

/-- `gate <- Free` at the end of foreground agent `k`'s request, with its result (R183, R184 step 7). -/
def endRequest (k : Nat) (res : Result) (s : State) : State := setSlot k (.done res) { s with gate := .free }

/-- The end of a handler run: `mirror` is `Idle` and `IRQA` is outside its handler (R222). -/
def handlerReturn (s : State) : State := { s with mirror := .idle, handler := .idle }

/-- The completion of the holder's operation: a foreground request ends with `Ok` (R184 step 7), a mirror cycle is
counted (R168), and the gate is released (R183). -/
def release (s : State) : State :=
  match s.gate with
  | .free => s
  | .heldFG k => endRequest k .ok s
  | .heldIRQ => handlerReturn { s with gate := .free, mirrorCount := countUp s.mirrorCount }

/-- `ACQ` by agent `k` whose slot holds the request `r`, having waited `t`: the gate if it is free (R181), BusFault
if the device is lost (R215, R200), ArbitrationTimeout at the end of the bounded wait (R185), else it waits. -/
def acquire (k : Nat) (r : Request) (t : Nat) (s : State) : State :=
  if s.dev = .detached ∨ s.unusable then setSlot k (.done .busFault) s
  else
    match s.gate with
    | .free => setSeqPc k 0 (setSlot k (.running r) { s with gate := .heldFG k })
    | .heldFG _ => if s.cfg.arbTimeout ≤ t then setSlot k (.done .arbitrationTimeout) s else s
    | .heldIRQ => if s.cfg.arbTimeout ≤ t then setSlot k (.done .arbitrationTimeout) s else s

/-- `TRYACQ` answers `Acquired` exactly when the gate is free; on an unusable device nobody acquires it (R182, R215,
log entry 12). -/
def gateOpen (s : State) : Bool := s.gate == .free && !s.unusable

/-- `TRYACQ` by `IRQA` at its place in the handler: `Acquired` enters the mirror cycle (R182, R161), `Busy` drops it
(R167). -/
def tryAcquire (s : State) : State :=
  if gateOpen s then { s with gate := .heldIRQ, irqSeqPc := 0, mirror := .mirroring, handler := .cycle }
  else handlerReturn s

/-! ### Taking a BusFault -/

/-- A transaction was answered with `Fault`: the device is unusable, the tracking flags are cleared, every waiting
request fails; the holder's operation ends and the gate is released (R213 for a foreground agent, R214 for `IRQA`,
R197 for `INITSEQ`, which holds no gate). Nothing is known of the reference chip any more (R213, U7; log entry 18). -/
def takeBusFault (s : State) : State :=
  let s1 := failWaiting { s with unusable := true, ctl := faultCtl s.ctl, chip := unknownChip }
  match s.gate with
  | .free => s1
  | .heldFG k => endRequest k .busFault s1
  | .heldIRQ => handlerReturn { s1 with gate := .free, faultCount := countUp s1.faultCount }

/-! ### Bus transactions and micro-steps -/

/-- An operation under way: `ok` where it goes on, `error` where a BusFault has ended it, in the state the fault
leaves. -/
abbrev Run := Except State State

/-- The state an operation leaves, whether or not a BusFault ended it. -/
def Run.final : Run → State
  | .ok s => s
  | .error s => s

/-- The effects of a delivered transaction: the trace `T`, the registers and flags, the reference chip
(R120, R121, R70). -/
def deliver (w : BusWord) (s : State) : State :=
  { s with
    trace := s.trace ++ [w]
    ctl := wordCtl s.cfg w s.ctl
    chip := chipAfter s.cfg s.engineActive w s.chip }

/-- `Bus(sel, v)`: one transaction, answered by the environment (R211, R124). -/
def busTransaction (w : BusWord) (s : State) : Run :=
  match s.busPlan with
  | none => .ok (deliver w s)
  | some 0 => .error (takeBusFault { s with busPlan := none })
  | some (n + 1) => .ok (deliver w { s with busPlan := some n })

/-- The bookkeeping of a mark on the state. -/
def applyMark (m : Mark) (s : State) : State := { s with ctl := markCtl m s.ctl }

/-- `EngineStart()`: one host event, `engine_active <- 1` (R166); what the display shows from then on is unspecified
(R256, log entry 18). -/
def engineStart (s : State) : State :=
  { s with events := s.events ++ [.engineStart], engineActive := true, chip := chipDisturb s.chip }

/-- One micro-step (R26). -/
def microStep (m : Micro) (s : State) : Run :=
  match m with
  | .bus w before after =>
    match busTransaction w (applyMark before s) with
    | .ok s' => .ok (applyMark after s')
    | .error s' => .error s'
  | .copyByte i => .ok (sbWrite s i (fbRead s i))
  | .engineStart => .ok (engineStart s)

/-- Micro-steps in order, `count` applied after each completed one; a BusFault ends the list (R26). -/
def runMicros (count : State → State) : List Micro → State → Run
  | [], s => .ok s
  | m :: ms, s =>
    match microStep m s with
    | .ok s' => runMicros count ms (count s')
    | .error s' => .error s'

/-- Micro-steps of the holder's own operation: its `seq_pc` counts them. -/
def runOperation (ms : List Micro) (s : State) : Run := runMicros bumpSeq ms s

/-- Micro-steps of an operation below the holder's own, which leave its `seq_pc` alone (log entry 13), and those of
`INITSEQ`, which has none. -/
def runBare (ms : List Micro) (s : State) : Run := runMicros id ms s

/-- Completion of an operation that ran to its end (R183); where a BusFault ended it there is nothing left to do. -/
def complete : Run → State
  | .ok s => release s
  | .error s => s

/-- An operation that only the holder of the gate may execute (R123, R180). -/
def byHolder (f : State → State) (s : State) : StepOutcome :=
  if s.dev = .detached then .fault .notAttached
  else
    match s.gate with
    | .free => .fault .notHolder
    | .heldFG _ => .next (f s)
    | .heldIRQ => .next (f s)

/-! ### The operation the holder runs -/

/-- The rest of the mirror cycle's micro-steps (R166, R26). -/
def mirrorRest (s : State) : List Micro := (mirrorSteps s.cfg s.width s.height).drop s.irqSeqPc

/-- The rest of the micro-steps of agent `k`'s request `r` (R184 step 6, R26). -/
def requestRest (s : State) (k : Nat) (r : Request) : List Micro :=
  (requestSteps s.cfg s.width s.height r).drop (seqPcOf s k)

/-- The micro-steps the holder's operation still has; none where no operation is under way. -/
def holderRest (s : State) : Option (List Micro) :=
  match s.gate with
  | .free => none
  | .heldFG k =>
    match slotOf s k with
    | some (.running r) => some (requestRest s k r)
    | _ => none
  | .heldIRQ => if s.mirror = .mirroring then some (mirrorRest s) else none

/-- The holder takes one step of its operation: the next micro-step, or the completion after the last (R26, R183). -/
def holderStep (s : State) : State :=
  match holderRest s with
  | none => s
  | some [] => release s
  | some (m :: _) =>
    match microStep m s with
    | .ok s' => bumpSeq s'
    | .error s' => s'

/-- The holder runs its operation from where it stands to its end, nobody else stepping between (R184 steps 6 and 7,
R164 to R168). -/
def holderRun (s : State) : State :=
  match holderRest s with
  | none => s
  | some ms => complete (runOperation ms s)

/-! ### Taking the interrupt -/

/-- Entry into the handler: the pending latch is cleared and the status read (R161, R220). -/
def handlerEnter (s : State) : State :=
  { s with
    irqPending := false
    events := s.events ++ [.statusRead s.hostStatus]
    handler := .ack s.hostStatus }

/-- `StatusAck(v)` of the value read: the acknowledged bits are cleared on the host side (R161, R73, log entry 3). -/
def handlerAck (v : Word) (s : State) : State :=
  { s with
    hostStatus := s.hostStatus &&& ~~~v
    events := s.events ++ [.statusAck v]
    handler := .decide v }

/-- The handler's decision on the status it read: nothing on an unusable device (R170), a counted SyncLoss (R163),
or on to `TRYACQ` with the engine's previous pass over (R161). -/
def handlerDecide (v : Word) (s : State) : State :=
  if s.unusable then handlerReturn s
  else if syncLoss v then handlerReturn { s with faultCount := countUp s.faultCount }
  else { s with engineActive := false, handler := .tryAcq }

end Sys2Proof.Machine
end

