-- ==== Sys2Proof/Machine/Lifecycle.lean ====
section
/-! DEFINITION. Lifecycle (45_lifecycle.md): `ATTACH`, `INITSEQ`, `DETACH`. -/

namespace Sys2Proof.Machine

/-- `ATTACH` accepts its arguments: `W` and `H` in `1..65536` and a FrameBuffer of `W*H*2` bytes (R195, R7). -/
def attachAccepts (w h fbSize : Nat) : Bool :=
  decide (1 ≤ w ∧ w ≤ 65536 ∧ 1 ≤ h ∧ h ≤ 65536 ∧ fbSize = w * h * 2)

/-- The registers and flags after `ATTACH`, before `INITSEQ` (R39); `SEL` and `SHD` are unspecified, drawn as free
values (log entry 8). -/
def attachCtl (w h n : Nat) : Ctl where
  curX := 0
  curY := 0
  winX0 := 0
  winX1 := lastCoord w
  winY0 := 0
  winY1 := lastCoord h
  sel := Config.selAfterAttach n
  shd := Config.shdAfterAttach n
  selValid := false
  shdValid := false
  winValid := false
  curValid := false
  writeArmed := false

/-- Every piece of state at the `ATTACH` column of R39, the chip unknown until written (R241), with `INITSEQ` still to
run. -/
def attachReset (w h fbBase : Nat) (s : State) : State :=
  { s with
    dev := .attached
    unusable := false
    initDue := true
    detachPending := false
    width := w
    height := h
    fbBase := fbBase
    sbBase := Config.sbBase s.freeCtr
    ctl := attachCtl w h s.freeCtr
    gate := .free
    mirror := .idle
    handler := .idle
    irqPending := false
    irqSeqPc := 0
    engineActive := false
    mirrorCount := 0
    faultCount := 0
    fgs := s.fgs.map fun _ => ⟨.empty, 0⟩
    sb := []
    chip := unknownChip
    freeCtr := s.freeCtr + 1 }

/-- The replay of `INIT_TABLE` (R196); a `Fault` stops it and leaves the device attached and unusable (R197). -/
def replayInit (s : State) : State :=
  let t := (runBare (initseqSteps s.cfg) { s with initDue := false }).final
  { t with chip := chipAfterInit t.chip }

/-- `INITSEQ`, inside `ATTACH` only (R196, R202). -/
def execInitseq (s : State) : StepOutcome :=
  if s.dev = .attached ∧ s.initDue then .next (replayInit s) else .fault .notAttaching

/-- `ATTACH W, H, FB_BASE` (R195): refused without a change of state, or everything of R39 and then `INITSEQ`. -/
def execAttach (w h fbBase fbSize : Nat) (s : State) : StepOutcome :=
  if s.dev = .attached then .fault .alreadyAttached
  else if attachAccepts w h fbSize then .next (replayInit (attachReset w h fbBase s))
  else .next s

/-- `DETACH` may take place: the gate is free and no handler runs (R198). -/
def detachEnabled (s : State) : Bool := s.dev == .attached && s.gate == .free && s.handler == .idle

/-- The device ceases to exist: waiting requests fail, the StagingBuffer is freed, and everything `ATTACH` defined
goes back to its power-on value, the chip to unknown (R198, R199, R39, log entries 7 and 17). -/
def detachNow (s : State) : State :=
  { s with
    dev := .detached
    unusable := false
    initDue := false
    detachPending := false
    width := 0
    height := 0
    fbBase := 0
    sbBase := 0
    ctl := powerOnCtl
    gate := .free
    mirror := .idle
    handler := .idle
    irqPending := false
    irqSeqPc := 0
    engineActive := false
    mirrorCount := 0
    faultCount := 0
    fgs := s.fgs.map fun f => ⟨failSlot f.slot, 0⟩
    sb := []
    chip := unknownChip }

/-- `DETACH` (R198): at once where it is enabled, else its caller waits. -/
def execDetach (s : State) : StepOutcome :=
  if s.dev = .detached then .fault .notAttached
  else if detachEnabled s then .next (detachNow s)
  else .next { s with detachPending := true }

end Sys2Proof.Machine
end

