-- ==== Sys2Proof/Machine/Agents.lean ====
section
/-! DEFINITION. The steps of the agents and of the environment (00_scope.md R12): the interrupt handler of
43_mirrorpipeline.md R161, the life of a request (44_requestarbiter.md R184), a waiting `DETACH`, the callers, time,
the external writers; and which of them moves when the input names nobody (log entry 1). -/

namespace Sys2Proof.Machine

/-- `IRQA` takes its next step, if it has one (R161, R171). -/
def irqaStep (s : State) : State :=
  if s.dev = .detached then s
  else
    match s.handler with
    | .idle => if s.irqPending then handlerEnter s else s
    | .ack v => handlerAck v s
    | .decide v => handlerDecide v s
    | .tryAcq => tryAcquire s
    | .cycle => if s.gate = .heldIRQ then holderStep s else s

/-- Foreground agent `k` takes its next step, if it has one (R184 steps 5 to 7). -/
def fgStep (k : Nat) (s : State) : State :=
  match slotOf s k with
  | some (.waiting r t) => acquire k r t s
  | some (.running _) => if s.gate = .heldFG k then holderStep s else s
  | _ => s

/-- The host, waiting in `DETACH`, detaches once it is enabled (R198). -/
def hostStep (s : State) : State := if s.detachPending && detachEnabled s then detachNow s else s

/-- The caller on port `k` gets the result `res`: the slot is `Empty` again, and `E` gains the completion
(R184 step 8, R11). DESIGN CHOICE (log entry 19): `E` gains it at this moment, while detached too (a result taken after
`DETACH`, or that of a `SUBMIT` refused while detached), although R200 has no host event made then: taking a result is
the caller's step, and R198 has slots keep theirs. -/
def handOver (k : Nat) (res : Result) (s : State) : State :=
  setSlot k .empty { s with
    returned := s.returned ++ [(k, res)]
    events := s.events ++ [.completion k res] }

/-- The caller on port `k` takes its result, if there is one (R184 step 8). -/
def takeResult (k : Nat) (s : State) : State :=
  match slotOf s k with
  | some (.done res) => handOver k res s
  | _ => s

/-- A waiting slot has waited one `Tick` more (R185). -/
def tickSlot : Slot → Slot
  | .waiting r t => .waiting r (t + 1)
  | v => v

/-- One `Tick` of the foreground wait (R185). -/
def tickAll (s : State) : State := { s with fgs := s.fgs.map fun f => { f with slot := tickSlot f.slot } }

/-- What a move does. An agent that has no step to take does nothing (R202, log entry 16). -/
def moveStep (m : Move) (s : State) : StepOutcome :=
  match m with
  | .irqa => .next (irqaStep s)
  | .fg k => .next (fgStep k s)
  | .host => .next (hostStep s)
  | .take k => .next (takeResult k s)
  | .tick => .next (tickAll s)
  | .status v => .next { s with hostStatus := v }
  | .busPlan n => .next { s with busPlan := n }
  | .fbWrite a b => .next { s with fb := sparseWrite a b s.fb }
  | .sbWrite i b =>
    if s.dev = .attached ∧ i < frameSize s then .next (sbWrite s i b) else .fault .noSuchByte

/-- The first agent at or after `k` whose slot holds a waiting request. -/
def firstWaiting (k : Nat) : List Fg → Option Nat
  | [] => none
  | f :: fs =>
    match f.slot with
    | .waiting _ _ => some k
    | _ => firstWaiting (k + 1) fs

/-- Who moves when the input names nobody: the interrupt context if it has a step, else the foreground holder, else a
waiting `DETACH`, else the first waiting request; nobody at the end of a run (R246, log entry 1). -/
def autoMove (s : State) : Option Move :=
  if s.dev = .attached ∧ (s.handler ≠ .idle ∨ s.irqPending = true) then some .irqa
  else
    match s.gate with
    | .heldFG k => some (.fg k)
    | .heldIRQ => none
    | .free => if s.detachPending then some .host else (firstWaiting 0 s.fgs).map .fg

/-- The next entry of the input, and the state without it (log entry 1). -/
def fetch (s : State) : Option (Event × State) :=
  match s.input with
  | [] => none
  | e :: rest => some (e, { s with input := rest })

/-- The step the machine takes when its input is empty. -/
def autoStep (s : State) : StepOutcome :=
  match autoMove s with
  | none => .next s
  | some m => moveStep m s

end Sys2Proof.Machine
end

