-- ==== Sys2Proof/Machine/BusChannel.lean ====
section
/-! DEFINITION. BusChannel (40_buschannel.md): `WCMD`, `WDAT`, `RDAT`. -/

namespace Sys2Proof.Machine

/-- `WCMD a` (R120): one transaction with the command-select. -/
def execWcmd (a : Half) (s : State) : StepOutcome := byHolder (fun s => (busTransaction (cmdWord a) s).final) s

/-- `WDAT v` (R121): one transaction with the data-select. -/
def execWdat (v : Half) (s : State) : StepOutcome := byHolder (fun s => (busTransaction (datWord v) s).final) s

/-- What `RDAT` returns and leaves: the shadow, or a fresh unspecified value while `shd_valid = 0` (R122, R230). -/
def readShadow (s : State) : State :=
  if s.ctl.shdValid then { s with rdatValue := s.ctl.shd }
  else { s with rdatValue := Config.rdatUnspecified s.freeCtr, freeCtr := s.freeCtr + 1 }

/-- `RDAT` (R122): no transaction. -/
def execRdat (s : State) : StepOutcome := byHolder readShadow s

end Sys2Proof.Machine
end

