-- ==== Sys2Proof/Machine/ChipRegisters.lean ====
section
/-! DEFINITION. The fourteen chip register addresses of the opcode table (30_encoding.md R96): each selects, as a
`WCMD` of its address, the chip register named; the data word that follows carries the part named (log entry 25). -/

namespace Sys2Proof.Machine

/-- `WCMD` of a chip register's address by the holder of the gate (R96, R120). -/
def selectRegister (address : Params → Half) (s : State) : StepOutcome :=
  byHolder (fun s => (busTransaction (cmdWord (address s.cfg)) s).final) s

/-- Select the chip register that holds window `x0` bits 7:0 (R96). -/
def execRegWinX0L (s : State) : StepOutcome := selectRegister (fun p => p.regWinX0L) s

/-- Select the chip register that holds window `x0` bits 15:8 (R96). -/
def execRegWinX0H (s : State) : StepOutcome := selectRegister (fun p => p.regWinX0H) s

/-- Select the chip register that holds window `y0` bits 7:0 (R96). -/
def execRegWinY0L (s : State) : StepOutcome := selectRegister (fun p => p.regWinY0L) s

/-- Select the chip register that holds window `y0` bits 15:8 (R96). -/
def execRegWinY0H (s : State) : StepOutcome := selectRegister (fun p => p.regWinY0H) s

/-- Select the chip register that holds window `x1` bits 7:0 (R96). -/
def execRegWinX1L (s : State) : StepOutcome := selectRegister (fun p => p.regWinX1L) s

/-- Select the chip register that holds window `x1` bits 15:8 (R96). -/
def execRegWinX1H (s : State) : StepOutcome := selectRegister (fun p => p.regWinX1H) s

/-- Select the chip register that holds window `y1` bits 7:0 (R96). -/
def execRegWinY1L (s : State) : StepOutcome := selectRegister (fun p => p.regWinY1L) s

/-- Select the chip register that holds window `y1` bits 15:8 (R96). -/
def execRegWinY1H (s : State) : StepOutcome := selectRegister (fun p => p.regWinY1H) s

/-- Select the chip register that holds cursor `x` bits 7:0 (R96). -/
def execRegCurXL (s : State) : StepOutcome := selectRegister (fun _ => regCurXL) s

/-- Select the chip register that holds cursor `x` bits 15:8 (R96). -/
def execRegCurXH (s : State) : StepOutcome := selectRegister (fun _ => regCurXH) s

/-- Select the chip register that holds cursor `y` bits 7:0 (R96). -/
def execRegCurYL (s : State) : StepOutcome := selectRegister (fun _ => regCurYL) s

/-- Select the chip register that holds cursor `y` bits 15:8 (R96). -/
def execRegCurYH (s : State) : StepOutcome := selectRegister (fun _ => regCurYH) s

/-- Select the chip register that holds the "prepare RAM write" command; arming the burst is `BEGINWR`'s job, R132 (R96). -/
def execRegMrw (s : State) : StepOutcome := selectRegister (fun p => p.regMrw) s

/-- Select the chip register that holds the foreground colour (R96). -/
def execRegFgColor (s : State) : StepOutcome := selectRegister (fun p => p.regFgColor) s

end Sys2Proof.Machine
end

