-- ==== Sys2Proof/Machine/ControllerState.lean ====
section
/-! DEFINITION. ControllerState (41_controllerstate.md): `SETCUR`, `SETWIN`, `BEGINWR`. -/

namespace Sys2Proof.Machine

/-- `SETCUR x, y` (R130): eight transactions, then the cursor is recorded. -/
def execSetcur (x y : Half) (s : State) : StepOutcome := byHolder (fun s => (runBare (setcurSteps x y) s).final) s

/-- `SETWIN x0, x1, y0, y1` (R131): sixteen transactions, then the window is recorded. -/
def execSetwin (x0 x1 y0 y1 : Half) (s : State) : StepOutcome :=
  byHolder (fun s => (runBare (setwinSteps s.cfg x0 x1 y0 y1) s).final) s

/-- `BEGINWR` (R132): the "prepare RAM write" command; neither `win_valid` nor `cur_valid` is checked (R134). -/
def execBeginwr (s : State) : StepOutcome := byHolder (fun s => (runBare (beginwrSteps s.cfg) s).final) s

end Sys2Proof.Machine
end

