-- ==== Sys2Proof/Machine/Drawing.lean ====
section
/-! DEFINITION. DrawingPrimitives (42_drawingprimitives.md): `BLIT`, `FILLRECT`, `TEXTRUN`, each the body of the
request that the gate's foreground holder is running (R148, log entry 14). -/

namespace Sys2Proof.Machine

/-- The body of a request by the agent that holds the gate for it: a request that fails validation ends with
SizeMismatch and no transaction (R141, R143, R146), a valid one runs to its end (R149). -/
def drawing (r : Request) (s : State) : StepOutcome :=
  if s.dev = .detached then .fault .notAttached
  else
    match s.gate with
    | .free => .fault .notHolder
    | .heldIRQ => .fault .notHolder
    | .heldFG k =>
      if slotOf s k = some (.running r) then
        if validRequest s.width s.height r then .next (holderRun s) else .next (endRequest k .sizeMismatch s)
      else .fault .notRunning

/-- `BLIT x0, y0, w, h, bytes` (R142, R143). -/
def execBlit (x0 y0 w h : Half) (bytes : List Byte) (s : State) : StepOutcome :=
  drawing (.blit x0 y0 w h bytes) s

/-- `FILLRECT x0, x1, y0, y1, c` with the payload its descriptor declares (R140, R141). -/
def execFillrect (x0 x1 y0 y1 c : Half) (payload : List Byte) (s : State) : StepOutcome :=
  drawing (.fillrect x0 x1 y0 y1 c payload.length) s

/-- `TEXTRUN x, y, c, bytes` (R145, R146). -/
def execTextrun (x y c : Half) (bytes : List Byte) (s : State) : StepOutcome := drawing (.textrun x y c bytes) s

end Sys2Proof.Machine
end

