-- ==== Sys2Proof/Machine/MirrorPipeline.lean ====
section
/-! DEFINITION. MirrorPipeline (43_mirrorpipeline.md): `IRQ`, `MIRROR`, `COPYFRAME`. The handler's own steps are in
Machine/Agents.lean. -/

namespace Sys2Proof.Machine

/-- `IRQ` arrival (R160): latched while attached, ignored while detached (R200). -/
def execIrq (s : State) : StepOutcome :=
  .next (if s.dev = .attached then { s with irqPending := true } else s)

/-- The mirror cycle is under way: `IRQA` holds the gate and runs `MIRROR` (R164, R27). -/
def inMirrorCycle (s : State) : Bool := s.dev == .attached && s.gate == .heldIRQ && s.mirror == .mirroring

/-- `MIRROR` (R164 to R168): the rest of the cycle's micro-steps, and its completion. -/
def execMirror (s : State) : StepOutcome :=
  if inMirrorCycle s then .next (holderRun s) else .fault .notMirroring

/-- `COPYFRAME` (R165): the full-frame copy, the first part of a mirror cycle. -/
def execCopyframe (s : State) : StepOutcome :=
  if inMirrorCycle s && s.irqSeqPc == 0 then .next (runOperation (copyframeSteps s.width s.height) s).final
  else .fault .notMirroring

end Sys2Proof.Machine
end

