-- ==== Sys2Proof/Machine/RequestArbiter.lean ====
section
/-! DEFINITION. RequestArbiter (44_requestarbiter.md): `ACQ`, `TRYACQ`, `REL`, `SUBMIT`. -/

namespace Sys2Proof.Machine

/-- `ACQ` by foreground agent `k` (R181), with its two errors and its wait (R185, R215). -/
def execAcq (k : Nat) (s : State) : StepOutcome :=
  match slotOf s k with
  | none => .fault .noSuchPort
  | some (.waiting r t) => .next (acquire k r t s)
  | some _ => .fault .notWaiting

/-- `TRYACQ` by `IRQA`, at its place in the handler (R182, R161). -/
def execTryacq (s : State) : StepOutcome :=
  if s.dev = .attached ∧ s.handler = .tryAcq then .next (tryAcquire s) else .fault .notAcquiring

/-- `REL` by the holder, once its last micro-step is done (R183). -/
def execRel (s : State) : StepOutcome :=
  if s.dev = .detached then .fault .notAttached
  else
    match holderRest s with
    | some [] => .next (release s)
    | some (_ :: _) => .fault .notComplete
    | none => .fault .notHolder

/-- What a port answers to a descriptor: `Illegal` (R106), BusFault on a detached or unusable device (R200, R215),
SizeMismatch (R141, R143, R146), each at once, or a request that waits for the gate (R184 steps 1 to 4, R218). -/
def portAnswer (d : Descriptor) (s : State) : Slot :=
  match decodeRequest d with
  | .error _ => .done .illegal
  | .ok r =>
    if s.dev = .detached ∨ s.unusable then .done .busFault
    else if validRequest s.width s.height r then .waiting r 0
    else .done .sizeMismatch

/-- `SUBMIT` on foreground port `k`, whose slot must be `Empty` (R184). -/
def execSubmit (k : Nat) (d : Descriptor) (s : State) : StepOutcome :=
  match slotOf s k with
  | none => .fault .noSuchPort
  | some .empty => .next (setSlot k (portAnswer d s) s)
  | some _ => .fault .slotNotEmpty

end Sys2Proof.Machine
end

