-- ==== Sys2Proof/Machine/Dispatch.lean ====
section
/-! DEFINITION. `exec`: one arm per constructor of `Instr`, each one direct call of its meaning. -/

namespace Sys2Proof.Machine

def exec (i : Instr) (s : State) : Host.Outcome State Fault Refusal :=
  match i with
  | .wcmd a => Sys2Proof.Machine.execWcmd a s
  | .wdat v => Sys2Proof.Machine.execWdat v s
  | .blit x0 y0 w h bytes => Sys2Proof.Machine.execBlit x0 y0 w h bytes s
  | .fillrect x0 x1 y0 y1 c payload => Sys2Proof.Machine.execFillrect x0 x1 y0 y1 c payload s
  | .textrun x y c bytes => Sys2Proof.Machine.execTextrun x y c bytes s
  | .rdat => Sys2Proof.Machine.execRdat s
  | .setcur x y => Sys2Proof.Machine.execSetcur x y s
  | .setwin x0 x1 y0 y1 => Sys2Proof.Machine.execSetwin x0 x1 y0 y1 s
  | .beginwr => Sys2Proof.Machine.execBeginwr s
  | .irq => Sys2Proof.Machine.execIrq s
  | .mirror => Sys2Proof.Machine.execMirror s
  | .copyframe => Sys2Proof.Machine.execCopyframe s
  | .acq k => Sys2Proof.Machine.execAcq k s
  | .tryacq => Sys2Proof.Machine.execTryacq s
  | .rel => Sys2Proof.Machine.execRel s
  | .submit k d => Sys2Proof.Machine.execSubmit k d s
  | .attach w h fbBase fbSize => Sys2Proof.Machine.execAttach w h fbBase fbSize s
  | .initseq => Sys2Proof.Machine.execInitseq s
  | .detach => Sys2Proof.Machine.execDetach s
  | .regWinX0L => Sys2Proof.Machine.execRegWinX0L s
  | .regWinX0H => Sys2Proof.Machine.execRegWinX0H s
  | .regWinY0L => Sys2Proof.Machine.execRegWinY0L s
  | .regWinY0H => Sys2Proof.Machine.execRegWinY0H s
  | .regWinX1L => Sys2Proof.Machine.execRegWinX1L s
  | .regWinX1H => Sys2Proof.Machine.execRegWinX1H s
  | .regWinY1L => Sys2Proof.Machine.execRegWinY1L s
  | .regWinY1H => Sys2Proof.Machine.execRegWinY1H s
  | .regCurXL => Sys2Proof.Machine.execRegCurXL s
  | .regCurXH => Sys2Proof.Machine.execRegCurXH s
  | .regCurYL => Sys2Proof.Machine.execRegCurYL s
  | .regCurYH => Sys2Proof.Machine.execRegCurYH s
  | .regMrw => Sys2Proof.Machine.execRegMrw s
  | .regFgColor => Sys2Proof.Machine.execRegFgColor s

end Sys2Proof.Machine
end

