-- ==== Sys2Proof/Machine/Placement.lean ====
section
/-! DEFINITION. Placing an operation so that the next step runs it (log entry 6). Only `SUBMIT`, `IRQ`, `ATTACH` and
`DETACH` are started from outside the block (00_scope.md R9); every other operation is a step of those, fetched only
inside an acquisition of the gate, a handler run or an `ATTACH`, which is what is set up here. -/

namespace Sys2Proof.Machine

/-- The state with the device attached, no `INITSEQ` due; a detached one is attached with a screen of one pixel. -/
def placeAttached (s : State) : State :=
  if s.dev = .attached then { s with initDue := false } else { attachReset 1 1 0 s with initDue := false }

/-- Foreground agent 0 holds the gate and is about to start the request `r`. -/
def placeRequest (r : Request) (s : State) : State :=
  setSeqPc 0 0 (setSlot 0 (.running r) { placeAttached s with gate := .heldFG 0 })

/-- A request for the operations that any holder may execute. -/
def placeholderRequest : Request := .textrun 0 0 0 []

/-- `IRQA` holds the gate at the start of a mirror cycle. -/
def placeCycle (s : State) : State :=
  { placeAttached s with gate := .heldIRQ, mirror := .mirroring, handler := .cycle, irqSeqPc := 0 }

/-- What an operation needs around it to be fetched at all. -/
def placeAround (i : Instr) (s : State) : State :=
  match i with
  | .blit x0 y0 w h bytes => placeRequest (.blit x0 y0 w h bytes) s
  | .fillrect x0 x1 y0 y1 c payload => placeRequest (.fillrect x0 x1 y0 y1 c payload.length) s
  | .textrun x y c bytes => placeRequest (.textrun x y c bytes) s
  | .mirror | .copyframe => placeCycle s
  | .rel =>
    let s1 := placeRequest placeholderRequest s
    setSeqPc 0 (requestSteps s1.cfg s1.width s1.height placeholderRequest).length s1
  | .acq k => setSlot k (.waiting placeholderRequest 0) { placeAttached s with gate := .free }
  | .tryacq => { placeAttached s with handler := .tryAcq }
  | .submit k _ => setSlot k .empty s
  | .attach _ _ _ _ => detachNow s
  | .initseq => { placeAttached s with initDue := true }
  | .detach => placeAttached s
  | .irq => s
  | .wcmd _ | .wdat _ | .rdat | .setcur _ _ | .setwin _ _ _ _ | .beginwr
  | .regWinX0L | .regWinX0H | .regWinY0L | .regWinY0H | .regWinX1L | .regWinX1H | .regWinY1L | .regWinY1H
  | .regCurXL | .regCurXH | .regCurYL | .regCurYH | .regMrw | .regFgColor =>
    placeRequest placeholderRequest s

/-- Whether the spec has a step for the operation in this state. -/
def hasStep (i : Instr) (s : State) : Bool :=
  match exec i s with
  | .next _ => true
  | .fault _ => false
  | .refused _ => false

/-- The state in which the operation is fetched: unchanged where it can run as things stand. -/
def placeFor (i : Instr) (s : State) : State := if hasStep i s then s else placeAround i s

end Sys2Proof.Machine
end

