-- ==== Sys2Proof/Machine/Step.lean ====
section
/-! DEFINITION. One step of the machine: the next entry of the input, an operation decoded and executed or a move of an
agent or of the environment; and the placing of a word of the opcode table as the next operation. -/

namespace Sys2Proof.Machine

/-- One step (00_scope.md R12, log entry 1). -/
def step (s : State) : Host.Outcome State Fault Refusal :=
  match fetch s with
  | none => autoStep s
  | some (.move m, s') => moveStep m s'
  | some (.op f bs, s') =>
    match decode f bs with
    | .ok i => exec i s'
    | .error e => .refused (.undecodable e)

/-- The state whose next step fetches and runs the instruction of the opcode table whose bits are `w` (log entry 6). -/
def State.withFetchWord (s : State) (nbits w : Nat) : State :=
  match tableFrame nbits w with
  | none => s
  | some (f, bs) =>
    match decode f bs with
    | .ok i => { placeFor i s with input := .op f bs :: s.input }
    | .error _ => { s with input := .op f bs :: s.input }

end Sys2Proof.Machine
end

