-- ==== Sys2Proof/Safety.lean ====
section
/-! DEFINITION. The terms claims about the block are stated in: what the environment is assumed to do
(60_exceptions.md R211), the invariants of 10_state.md R40, the end of a run (70_reset_and_hazards.md R246), and the
sequencing rule of 41_controllerstate.md R134 as a property of the trace and of the operation under way. -/

namespace Sys2Proof.Machine

/-- None of the next `n` bus transactions is answered with `Fault` (R211). -/
def busDelivers (s : State) (n : Nat) : Prop := ∀ m, s.busPlan = some m → n ≤ m

/-- The bus's answers that remain after `n` delivered transactions. -/
def busPlanAfter (s : State) (n : Nat) : Option Nat := s.busPlan.map fun m => m - n

/-- The sizes of the screen are in range (R7). -/
def screenInRange (s : State) : Prop := 1 ≤ s.width ∧ s.width ≤ 65536 ∧ 1 ≤ s.height ∧ s.height ≤ 65536

/-- `WIN_*` is the full-screen window `(0, W-1, 0, H-1)` (R133). -/
def windowFull (s : State) : Prop :=
  s.ctl.winX0.toNat = 0 ∧ s.ctl.winX1.toNat = s.width - 1 ∧ s.ctl.winY0.toNat = 0 ∧ s.ctl.winY1.toNat = s.height - 1

/-- Agent `k` is running a request. -/
def runningAt (s : State) (k : Nat) : Prop := ∃ r, slotOf s k = some (.running r)

/-- Who holds what (R40 items 1, 2 and 7, R25, R200): `IRQA` holds the gate exactly while it mirrors, a foreground
agent exactly while its slot is running, nobody on an unusable or a detached device; no `ATTACH` is half done; only
validated requests wait or run (R184). -/
structure GateInv (s : State) : Prop where
  mirrorIff : s.mirror = .mirroring ↔ s.gate = .heldIRQ
  cycleIff : s.handler = .cycle ↔ s.gate = .heldIRQ
  runningIff : ∀ k, runningAt s k ↔ s.gate = .heldFG k
  unusableFree : s.unusable = true → s.gate = .free
  detachedIdle : s.dev = .detached → s.gate = .free ∧ s.handler = .idle
  attachDone : s.initDue = false
  admitted : ∀ k r, (slotOf s k = some (.running r) ∨ ∃ t, slotOf s k = some (.waiting r t)) →
    validRequest s.width s.height r = true

/-- The memories of the state keep their canonical form: host memory, the StagingBuffer, and the reference chip's
register file and display memory. -/
def memoriesWf (s : State) : Prop :=
  Memory.wf s.fb = true ∧ Memory.wf s.sb = true ∧ sparseWf s.chip.creg = true ∧ sparseWf s.chip.vram = true

/-- The holder's operation run to its end with every transaction delivered. -/
def undisturbed (s : State) : State := holderRun { s with busPlan := none }

/-- The window a running operation leaves, or the present one where the gate is free, is full-screen or not trusted
(R40 item 4, R254); sizes are in range while attached. -/
structure WindowInv (s : State) : Prop where
  restored : (undisturbed s).ctl.winValid = true → windowFull (undisturbed s)
  inRange : s.dev = .attached → screenInRange s

/-- The recorded window is ordered and on the screen whenever it is trusted (R40 item 5); sizes are in range while
attached. -/
structure WindowBounds (s : State) : Prop where
  onScreen : s.ctl.winValid = true →
    s.ctl.winX0.toNat ≤ s.ctl.winX1.toNat ∧ s.ctl.winX1.toNat ≤ s.width - 1
      ∧ s.ctl.winY0.toNat ≤ s.ctl.winY1.toNat ∧ s.ctl.winY1.toNat ≤ s.height - 1
  inRange : s.dev = .attached → screenInRange s

/-- The next entry of the input is no bare `SETWIN`: outside callers reach the window only through requests, the
mirror cycle and `ATTACH` (R123, R9). -/
def noBareSetwin (s : State) : Prop :=
  ∀ f bs rest x0 x1 y0 y1, s.input = .op f bs :: rest → decode f bs ≠ .ok (.setwin x0 x1 y0 y1)

/-- A foreground agent with another slot. -/
def withSlot (v : Slot) (f : Fg) : Fg := { f with slot := v }

/-- The foreground agents when the device is lost: a waiting request has ended with BusFault, everything else is as it
was (R213, R214, R198). -/
def deviceLost (fgs : List Fg) : List Fg :=
  fgs.map fun f =>
    match f.slot with
    | .waiting _ _ => ⟨.done .busFault, f.seqPc⟩
    | _ => f

/-- The foreground agents one `Tick` later: whoever waits has waited 1 more (R185). -/
def oneTickLater (fgs : List Fg) : List Fg :=
  fgs.map fun f =>
    match f.slot with
    | .waiting r t => ⟨.waiting r (t + 1), f.seqPc⟩
    | _ => f

/-! ### The traces the rules of the spec write out -/

/-- The low part of a coordinate as a data word (R97). -/
def lowPart (c : Half) : BusWord := datWord (BitVec.ofNat 16 (c.toNat % 256))

/-- The high part of a coordinate as a data word (R97). -/
def highPart (c : Half) : BusWord := datWord (BitVec.ofNat 16 (c.toNat / 256))

/-- The cursor-set sequence (R130). -/
def cursorWords (x y : Half) : List BusWord :=
  [cmdWord 0x46#16, lowPart x, cmdWord 0x47#16, highPart x, cmdWord 0x48#16, lowPart y, cmdWord 0x49#16, highPart y]

/-- The window-set sequence (R131). -/
def windowWords (p : Params) (x0 x1 y0 y1 : Half) : List BusWord :=
  [cmdWord p.regWinX0L, lowPart x0, cmdWord p.regWinX0H, highPart x0,
   cmdWord p.regWinX1L, lowPart x1, cmdWord p.regWinX1H, highPart x1,
   cmdWord p.regWinY0L, lowPart y0, cmdWord p.regWinY0H, highPart y0,
   cmdWord p.regWinY1L, lowPart y1, cmdWord p.regWinY1H, highPart y1]

/-- The window-set sequence of the full-screen window (R133). -/
def fullWords (p : Params) (w h : Nat) : List BusWord :=
  windowWords p 0 (BitVec.ofNat 16 (w - 1)) 0 (BitVec.ofNat 16 (h - 1))

/-- The pixel count of a fill, `(x1-x0+1)*(y1-y0+1)` (R101). -/
def fillPixels (x0 x1 y0 y1 : Half) : Nat := (x1.toNat - x0.toNat + 1) * (y1.toNat - y0.toNat + 1)

/-- The transactions of a fill (R140). -/
def fillWords (p : Params) (w h : Nat) (x0 x1 y0 y1 c : Half) : List BusWord :=
  windowWords p x0 x1 y0 y1 ++ cursorWords x0 y0 ++ [cmdWord p.regMrw]
    ++ List.replicate (fillPixels x0 x1 y0 y1) (datWord c) ++ fullWords p w h

/-- Pixel `i` of a blit payload, `bytes[2i]*256 + bytes[2i+1]` (R99). -/
def blitPixel (bytes : List Byte) (i : Nat) : Half :=
  BitVec.ofNat 16 ((bytes.getD (2 * i) 0).toNat * 256 + (bytes.getD (2 * i + 1) 0).toNat)

/-- The transactions of a blit before the window is restored (R142). -/
def blitBodyWords (p : Params) (x0 y0 bw bh : Half) (bytes : List Byte) : List BusWord :=
  windowWords p x0 (BitVec.ofNat 16 (x0.toNat + bw.toNat - 1)) y0 (BitVec.ofNat 16 (y0.toNat + bh.toNat - 1))
    ++ cursorWords x0 y0 ++ [cmdWord p.regMrw]
    ++ (List.range (bw.toNat * bh.toNat)).map fun i => datWord (blitPixel bytes i)

/-- The transactions of a blit (R142). -/
def blitWords (p : Params) (w h : Nat) (x0 y0 bw bh : Half) (bytes : List Byte) : List BusWord :=
  blitBodyWords p x0 y0 bw bh bytes ++ if p.blitRestoreWindow then fullWords p w h else []

/-- The transactions of a text run (R145, R100). -/
def textWordsOf (p : Params) (x y c : Half) (bytes : List Byte) : List BusWord :=
  (colorWrites p.fgColorSeq c).flatMap (fun w => [cmdWord w.1, datWord w.2])
    ++ cursorWords x y ++ [cmdWord p.regMrw] ++ bytes.map fun b => datWord (BitVec.ofNat 16 b.toNat)

/-- The transactions of a request (R184 step 6). -/
def requestWords (p : Params) (w h : Nat) : Request → List BusWord
  | .blit x0 y0 bw bh bytes => blitWords p w h x0 y0 bw bh bytes
  | .fillrect x0 x1 y0 y1 c _ => fillWords p w h x0 x1 y0 y1 c
  | .textrun x y c bytes => textWordsOf p x y c bytes

/-- The drawing operation a request is the body of; its payload bytes, which R141 wants absent, as zeros. -/
def drawingOf : Request → Instr
  | .blit x0 y0 bw bh bytes => .blit x0 y0 bw bh bytes
  | .fillrect x0 x1 y0 y1 c plen => .fillrect x0 x1 y0 y1 c (List.replicate plen 0)
  | .textrun x y c bytes => .textrun x y c bytes

/-- The 25 transactions of a mirror cycle (R166). -/
def mirrorWords (p : Params) (w h : Nat) : List BusWord := fullWords p w h ++ cursorWords 0 0 ++ [cmdWord p.regMrw]

/-- The transactions of `INITSEQ` (R196). -/
def initWords (p : Params) : List BusWord := p.initTable.flatMap fun e => [cmdWord e.reg, datWord e.value]

/-- The end of a run (R246): attached, the gate free, no mirror cycle, no interrupt pending, every slot `Empty` or
`Done`, and nothing more from the environment. DEDUCED (log entry 29): no handler step is outstanding (R161) and no
`DETACH` waits (R198), of which R246 does not speak. -/
def quiescent (s : State) : Prop :=
  s.dev = .attached ∧ s.gate = .free ∧ s.mirror = .idle ∧ s.handler = .idle ∧ s.irqPending = false
    ∧ s.detachPending = false ∧ s.input = []
    ∧ ∀ k v, slotOf s k = some v → v = .empty ∨ ∃ res, v = .done res

/-- How far a trace has come since the last window register was selected: how many words of a cursor-set sequence
have gone by without a break, and whether a whole one has. -/
structure CursorScan where
  words : Nat
  complete : Bool
  deriving DecidableEq, Repr

/-- The select and, for a command, the address that word number `n` of a cursor-set sequence must have (R130). -/
def cursorWordAt (n : Nat) (w : BusWord) : Bool :=
  match n with
  | 0 => w == cmdWord 0x46#16
  | 2 => w == cmdWord 0x47#16
  | 4 => w == cmdWord 0x48#16
  | 6 => w == cmdWord 0x49#16
  | 1 => w.sel == .dat
  | 3 => w.sel == .dat
  | 5 => w.sel == .dat
  | 7 => w.sel == .dat
  | _ => false

/-- One word of the scan: a window register's selection starts anew; the words of a cursor-set sequence count. -/
def scanWord (p : Params) (q : CursorScan) (w : BusWord) : CursorScan :=
  if w.sel = .cmd ∧ (windowRegs p).contains w.value = true then ⟨0, false⟩
  else if cursorWordAt q.words w then ⟨(q.words + 1) % 8, q.complete || q.words == 7⟩
  else if cursorWordAt 0 w then ⟨1, q.complete⟩
  else ⟨0, q.complete⟩

/-- R134 as a property of a trace: every `WCMD REG_MRW` finds a complete cursor-set sequence since the last `WCMD` of
a window register, from a scan that starts at `q`. -/
def cursorBeforeBurst (p : Params) : CursorScan → List BusWord → Prop
  | _, [] => True
  | q, w :: ws => (w = cmdWord p.regMrw → q.complete = true) ∧ cursorBeforeBurst p (scanWord p q w) ws

/-! ### R40 item 6 as a property of the operation under way -/

/-- The registers and flags after a delivered micro-step. -/
def microCtl (p : Params) (c : Ctl) : Micro → Ctl
  | .bus w before after => markCtl after (wordCtl p w (markCtl before c))
  | .copyByte _ => c
  | .engineStart => c

/-- Micro-steps, run from the flags `c` with every transaction delivered, find `cur_valid = 1` at each `BEGINWR`, and
`win_valid = 1` too where the operation is to have set its window. -/
def burstReady (p : Params) (setsWindow : Bool) : List Micro → Ctl → Prop
  | [], _ => True
  | m :: ms, c =>
    (m ∈ beginwrSteps p → c.curValid = true ∧ (setsWindow = true → c.winValid = true))
      ∧ burstReady p setsWindow ms (microCtl p c m)

/-- The holder's operation is one that sets its window: every one but `TEXTRUN` (R40 item 6, R145). -/
def setsWindow (s : State) : Bool :=
  match s.gate with
  | .free => false
  | .heldIRQ => true
  | .heldFG k =>
    match slotOf s k with
    | some (.running (.textrun _ _ _ _)) => false
    | _ => true

/-- Every `BEGINWR` that the operation under way still has to execute will find the flags it needs (R40 item 6). -/
def BurstInv (s : State) : Prop := ∀ ms, holderRest s = some ms → burstReady s.cfg (setsWindow s) ms s.ctl

/-- The operations that the holder of the gate can be made to execute beside its own list (log entry 13). -/
def besideTheList : Instr → Bool
  | .wcmd _ | .wdat _ | .setcur _ _ | .setwin _ _ _ _ | .beginwr
  | .regWinX0L | .regWinX0H | .regWinY0L | .regWinY0H | .regWinX1L | .regWinX1H | .regWinY1L | .regWinY1H
  | .regCurXL | .regCurXH | .regCurYL | .regCurYH | .regMrw | .regFgColor => true
  | .rdat | .blit _ _ _ _ _ | .fillrect _ _ _ _ _ _ | .textrun _ _ _ _ | .irq | .mirror | .copyframe | .acq _
  | .tryacq | .rel | .submit _ _ | .attach _ _ _ _ | .initseq | .detach => false

/-- The operations that the holder of the gate executes (R180, R183); the others are presented by the environment, the
host, or an agent that asks for the gate (R202). -/
def ofTheHolder : Instr → Bool
  | .wcmd _ | .wdat _ | .rdat | .setcur _ _ | .setwin _ _ _ _ | .beginwr | .blit _ _ _ _ _ | .fillrect _ _ _ _ _ _
  | .textrun _ _ _ _ | .mirror | .copyframe | .rel
  | .regWinX0L | .regWinX0H | .regWinY0L | .regWinY0H | .regWinX1L | .regWinX1H | .regWinY1L | .regWinY1H
  | .regCurXL | .regCurXH | .regCurYL | .regCurYH | .regMrw | .regFgColor => true
  | .irq | .acq _ | .tryacq | .submit _ _ | .attach _ _ _ _ | .initseq | .detach => false

/-- `t` follows `s` by a move other than `own`, or by an operation that the holder of the gate does not execute. -/
def byAnother (own : Move) (s t : State) : Prop :=
  (∃ m, m ≠ own ∧ moveStep m s = .next t) ∨ ∃ i, ofTheHolder i = false ∧ exec i s = .next t

/-- The next entry of the input sends no transaction beside the holder's list; no port offers such an operation to
an outside caller (R9, R123). -/
def onlyTheList (s : State) : Prop :=
  ∀ f bs rest i, s.input = .op f bs :: rest → decode f bs = .ok i → besideTheList i = false

end Sys2Proof.Machine
end

