-- ==== Sys2Proof/Certificates/Slice0/Obligations.lean ====
section
/-! DEFINITION. The statements about the model, each formalising the rule of spec/ its docstring names. -/

open Sys2Proof Sys2Proof.Machine

/-! ### Encoding -/

/-- R91, R96, R104, R105, R111: decoding the encoding of a well-formed instruction gives it back, with every operand at
every value the encoding admits. The operand bytes behind an operation number are the model's (log entry 5). -/
def Obligations.DecodeEncodeRoundTrip : Prop :=
  ∀ i : Instr, i.wf = true → decode (encode i).1 (encode i).2 = .ok i

/-- Words written out from R91 to R93, R96, R104 and R111 decode to what they stand for; where an operation number has
operands behind it, their layout is the model's (log entry 5). -/
def Obligations.DecodeSpecWords : Prop :=
  decodeTableWord 24 0x00046 = some (.wcmd 0x0046) ∧ decodeTableWord 24 0x1000A = some (.wdat 0x000A)
    ∧ decodeTableWord 16 0x0031 = some .regWinX0H ∧ decodeTableWord 8 0x05 = some .beginwr
    ∧ decodeTableWord 8 0x0B = some .copyframe ∧ decodeTableWord 8 0x0E = some .rel
    ∧ decodeTableWord 8 0x12 = some .detach
    ∧ decodeTableWord 128 0x0002000A0014000A0014F80000000000 = some (.fillrect 10 20 10 20 0xF800 [])
    ∧ decode .opid [0x00, 0x00, 0x46] = .ok (.wcmd 0x0046) ∧ decode .opid [0x01, 0x00, 0x0A] = .ok (.wdat 0x000A)
    ∧ decode .opid [0x06, 0, 10, 0, 20, 0, 10, 0, 20, 0xF8, 0] = .ok (.fillrect 10 20 10 20 0xF800 [])
    ∧ decode .opid [0x07, 0, 2, 0, 1, 0, 1, 0, 1, 0xF8, 0] = .ok (.blit 2 1 1 1 [0xF8, 0])
    ∧ decode .opid [0x08, 0, 0, 0, 0, 0x07, 0xE0, 0x41] = .ok (.textrun 0 0 0x07E0 [0x41])

/-- R103: the status is classified SyncLoss exactly when bit 2 or bit 5 is set, that is when `(s & 0x24) ≠ 0`; any
other value, 0 among them, is benign. -/
def Obligations.SyncLossIsMask24 : Prop :=
  (∀ v : Word, (syncLoss v = true ↔ v &&& 0x24#32 ≠ 0#32)
    ∧ (syncLoss v = false ↔ v.getLsbD 2 = false ∧ v.getLsbD 5 = false))
  ∧ syncLoss 0 = false

/-! ### The machine -/

/-- The step of a state whose next entry is an operation that decodes to `i` is `exec i` on the rest of the input. That
there is such a list, whose head a step decodes and runs, is the model's choice (log entry 1, DESIGN CHOICE): the block
has no program memory (R26), and no rule of the spec states this. -/
def Obligations.StepRunsDecoded : Prop :=
  ∀ (s : State) (f : Format) (bs : List Byte) (rest : List Event) (i : Instr),
    s.input = .op f bs :: rest → decode f bs = .ok i → step s = exec i { s with input := rest }

/-- R39, R246: power-on leaves `dev = Detached` (the model's other values are those of log entry 7, DESIGN CHOICE) and a
step from there changes nothing; nor does a step of a state in which a run is over, every slot `Empty` or `Done` and
nothing left to come. That a run which is over has no handler step outstanding and no `DETACH` waiting, which R246 does
not ask, is log entry 29 (DEDUCED); that a step with nothing in the input is the model's own schedule, and changes
nothing here, is log entries 1 and 6 (DESIGN CHOICE). -/
def Obligations.ResetAndQuiescentStatesStay : Prop :=
  State.reset.dev = .detached ∧ State.reset.trace = [] ∧ State.reset.events = [] ∧ State.reset.sb = []
    ∧ State.reset.gate = .free ∧ step State.reset = .next State.reset
    ∧ ∀ s : State, quiescent s → step s = .next s

/-! ### BusChannel -/

/-- R120: `WCMD a` by the holder of the gate, delivered. -/
def Obligations.WcmdDelivers : Prop :=
  ∀ (a : Half) (s : State), s.dev = .attached → s.gate ≠ .free → busDelivers s 1 →
    exec (.wcmd a) s = .next { s with
      busPlan := busPlanAfter s 1
      trace := s.trace ++ [cmdWord a]
      ctl := { s.ctl with sel := a, selValid := true, writeArmed := if a = s.cfg.regMrw then s.ctl.writeArmed else false }
      chip := chipRun s.cfg s.engineActive [cmdWord a] s.chip }

/-- R121: `WDAT v` by the holder of the gate, delivered. -/
def Obligations.WdatDelivers : Prop :=
  ∀ (v : Half) (s : State), s.dev = .attached → s.gate ≠ .free → busDelivers s 1 →
    exec (.wdat v) s = .next { s with
      busPlan := busPlanAfter s 1
      trace := s.trace ++ [datWord v]
      ctl := { s.ctl with shd := v, shdValid := true, curValid := if s.ctl.writeArmed then false else s.ctl.curValid }
      chip := chipRun s.cfg s.engineActive [datWord v] s.chip }

/-- R122: `RDAT` returns the last written value and changes nothing else; while `shd_valid = 0` the value is a free
one, whichever it is, and the model's counter of free values advances (log entry 8). -/
def Obligations.RdatReturnsShadow : Prop :=
  ∀ s : State, s.dev = .attached → s.gate ≠ .free →
    (s.ctl.shdValid = true → exec .rdat s = .next { s with rdatValue := s.ctl.shd })
    ∧ (s.ctl.shdValid = false →
        ∃ v, exec .rdat s = .next { s with rdatValue := v, freeCtr := s.freeCtr + 1 })

/-- R96: each of the fourteen chip register rows selects, as `WCMD` of its address, the register named; that a row is
run as such a `WCMD` is the model's reading (log entry 25). -/
def Obligations.ChipRegistersSelect : Prop :=
  ∀ (s : State) (i : Instr) (a : Half),
    (i, a) ∈ [(Instr.regWinX0L, s.cfg.regWinX0L), (.regWinX0H, s.cfg.regWinX0H), (.regWinY0L, s.cfg.regWinY0L),
      (.regWinY0H, s.cfg.regWinY0H), (.regWinX1L, s.cfg.regWinX1L), (.regWinX1H, s.cfg.regWinX1H),
      (.regWinY1L, s.cfg.regWinY1L), (.regWinY1H, s.cfg.regWinY1H), (.regCurXL, 0x46#16), (.regCurXH, 0x47#16),
      (.regCurYL, 0x48#16), (.regCurYH, 0x49#16), (.regMrw, s.cfg.regMrw), (.regFgColor, s.cfg.regFgColor)] →
    s.dev = .attached → s.gate ≠ .free → busDelivers s 1 →
    exec i s = .next { s with
      busPlan := busPlanAfter s 1
      trace := s.trace ++ [cmdWord a]
      ctl := { s.ctl with sel := a, selValid := true, writeArmed := if a = s.cfg.regMrw then s.ctl.writeArmed else false }
      chip := chipRun s.cfg s.engineActive [cmdWord a] s.chip }

/-- R123, R180, R40 item 3: while nobody holds the gate no bus or controller operation takes place: the spec has no such
step, which the model makes a fault by name (log entry 16); and while the device is attached no step at all sends a
transaction or changes the guarded registers and flags, but for a `DETACH`, which takes them away. -/
def Obligations.OnlyTheHolderUsesTheBus : Prop :=
  (∀ (s : State) (a x y x1 y1 : Half), s.gate = .free →
    ∀ i ∈ [Instr.wcmd a, .wdat a, .rdat, .setcur x y, .setwin x x1 y y1, .beginwr],
      exec i s = .fault (if s.dev = .detached then .notAttached else .notHolder))
  ∧ ∀ s t : State, GateInv s → s.dev = .attached → s.gate = .free → step s = .next t →
      t.trace = s.trace ∧ (t.ctl = s.ctl ∨ t.dev = .detached)

/-! ### ControllerState -/

/-- R130: `SETCUR x, y`, all eight transactions delivered. -/
def Obligations.SetcurCompletes : Prop :=
  ∀ (x y : Half) (s : State), s.dev = .attached → s.gate ≠ .free → paramsWf s.cfg = true → busDelivers s 8 →
    exec (.setcur x y) s = .next { s with
      busPlan := busPlanAfter s 8
      trace := s.trace ++ cursorWords x y
      ctl := { s.ctl with
        curX := x, curY := y, curValid := true, writeArmed := false
        sel := 0x49#16, selValid := true, shd := (highPart y).value, shdValid := true }
      chip := chipRun s.cfg s.engineActive (cursorWords x y) s.chip }

/-- R131: `SETWIN x0, x1, y0, y1`, all sixteen transactions delivered. -/
def Obligations.SetwinCompletes : Prop :=
  ∀ (x0 x1 y0 y1 : Half) (s : State), s.dev = .attached → s.gate ≠ .free → paramsWf s.cfg = true → busDelivers s 16 →
    exec (.setwin x0 x1 y0 y1) s = .next { s with
      busPlan := busPlanAfter s 16
      trace := s.trace ++ windowWords s.cfg x0 x1 y0 y1
      ctl := { s.ctl with
        winX0 := x0, winX1 := x1, winY0 := y0, winY1 := y1, winValid := true, curValid := false, writeArmed := false
        sel := s.cfg.regWinY1H, selValid := true, shd := (highPart y1).value, shdValid := true }
      chip := chipRun s.cfg s.engineActive (windowWords s.cfg x0 x1 y0 y1) s.chip }

/-- R132: `BEGINWR`, delivered; neither `win_valid` nor `cur_valid` matters to it (R134). -/
def Obligations.BeginwrCompletes : Prop :=
  ∀ s : State, s.dev = .attached → s.gate ≠ .free → busDelivers s 1 →
    exec .beginwr s = .next { s with
      busPlan := busPlanAfter s 1
      trace := s.trace ++ [cmdWord s.cfg.regMrw]
      ctl := { s.ctl with sel := s.cfg.regMrw, selValid := true, writeArmed := true }
      chip := chipRun s.cfg s.engineActive [cmdWord s.cfg.regMrw] s.chip }

/-- R135, R213, R214: a `SETCUR` or `SETWIN` that faults part-way, whoever holds the gate, sends the words before the
fault, keeps the recorded cursor and window, and leaves none of them trusted. -/
def Obligations.SequenceFaultKeepsRegisters : Prop :=
  ∀ (i : Instr) (ws : List BusWord) (n : Nat) (s : State),
    ((∃ x y, i = .setcur x y ∧ ws = cursorWords x y)
      ∨ ∃ x0 x1 y0 y1, i = .setwin x0 x1 y0 y1 ∧ ws = windowWords s.cfg x0 x1 y0 y1) →
    s.dev = .attached → s.gate ≠ .free → s.busPlan = some n → n < ws.length →
    ∃ t, exec i s = .next t ∧ t.trace = s.trace ++ ws.take n
      ∧ t.ctl.curX = s.ctl.curX ∧ t.ctl.curY = s.ctl.curY
      ∧ t.ctl.winX0 = s.ctl.winX0 ∧ t.ctl.winX1 = s.ctl.winX1 ∧ t.ctl.winY0 = s.ctl.winY0 ∧ t.ctl.winY1 = s.ctl.winY1
      ∧ t.ctl.winValid = false ∧ t.ctl.curValid = false ∧ t.ctl.writeArmed = false
      ∧ t.unusable = true ∧ t.gate = .free ∧ t.fb = s.fb ∧ t.sb = s.sb

/-- R24, R70, R66 item 6: after a `SETWIN` and a `SETCUR` the reference chip's window, pointer and selected register are
the recorded ones. The display is as it was, but undefined everywhere after a cursor outside the window (U1) or with the
engine's pass under way (U10). -/
def Obligations.ChipFollowsWindowAndCursor : Prop :=
  ∀ (x0 x1 y0 y1 x y : Half) (s : State), s.dev = .attached → s.gate ≠ .free →
    paramsWf s.cfg = true → busDelivers s 24 →
    ∃ t u, exec (.setwin x0 x1 y0 y1) s = .next t ∧ exec (.setcur x y) t = .next u
      ∧ u.ctl.winValid = true ∧ u.ctl.curValid = true
      ∧ u.chip.window = some ⟨u.ctl.winX0.toNat, u.ctl.winX1.toNat, u.ctl.winY0.toNat, u.ctl.winY1.toNat⟩
      ∧ u.chip.pointer = some (u.ctl.curX.toNat, u.ctl.curY.toNat)
      ∧ u.chip.csel = some u.ctl.sel
      ∧ ∀ px py, chipCell u.chip px py =
        if s.engineActive = false ∧ x0.toNat ≤ x.toNat ∧ x.toNat ≤ x1.toNat ∧ y0.toNat ≤ y.toNat ∧ y.toNat ≤ y1.toNat
        then chipCell s.chip px py else none

/-! ### Taking a BusFault -/

/-- R213: a transaction of either kind answered with `Fault` while agent `k` holds the gate: `SEL` and `SHD` keep their
values; nothing is known of the reference chip any more (U7, log entry 18); the bus's answers to come start afresh
(log entry 2). -/
def Obligations.BusFaultInForeground : Prop :=
  ∀ (a v : Half) (k : Nat) (s : State), s.dev = .attached → s.gate = .heldFG k → s.busPlan = some 0 →
    ∀ i ∈ [Instr.wcmd a, .wdat v], exec i s = .next { s with
      busPlan := none
      unusable := true
      ctl := { s.ctl with winValid := false, curValid := false, writeArmed := false }
      chip := unknownChip
      gate := .free
      fgs := (deviceLost s.fgs).modify k (withSlot (.done .busFault)) }

/-- R214: a transaction of either kind answered with `Fault` while `IRQA` holds the gate: `SEL` and `SHD` keep their
values; nothing is known of the reference chip any more (U7, log entry 18); the bus's answers to come start afresh
(log entry 2). -/
def Obligations.BusFaultInMirror : Prop :=
  ∀ (a v : Half) (s : State), s.dev = .attached → s.gate = .heldIRQ → s.busPlan = some 0 →
    ∀ i ∈ [Instr.wcmd a, .wdat v], exec i s = .next { s with
      busPlan := none
      unusable := true
      ctl := { s.ctl with winValid := false, curValid := false, writeArmed := false }
      chip := unknownChip
      faultCount := s.faultCount + 1
      gate := .free
      mirror := .idle
      handler := .idle
      fgs := deviceLost s.fgs }

/-- R221, R213: a drawing operation whose transaction number `n` faults sent exactly the first `n` words; its agent's
`seq_pc` is `n`, its result BusFault. That the bus's answers to come start afresh is the model's (log entry 2). -/
def Obligations.ForegroundFaultIsPrecise : Prop :=
  ∀ (r : Request) (n k : Nat) (s : State), s.dev = .attached → s.gate = .heldFG k →
    s.fgs[k]? = some ⟨.running r, 0⟩ → validRequest s.width s.height r = true → s.busPlan = some n →
    n < (requestWords s.cfg s.width s.height r).length →
    ∃ t, exec (drawingOf r) s = .next t
      ∧ t.trace = s.trace ++ (requestWords s.cfg s.width s.height r).take n
      ∧ t.unusable = true ∧ t.gate = .free ∧ t.busPlan = none
      ∧ t.ctl.winValid = false ∧ t.ctl.curValid = false ∧ t.ctl.writeArmed = false
      ∧ t.fgs = (deviceLost s.fgs).modify k (fun _ => ⟨.done .busFault, n⟩)
      ∧ t.mirrorCount = s.mirrorCount ∧ t.faultCount = s.faultCount ∧ t.events = s.events
      ∧ t.fb = s.fb ∧ t.sb = s.sb

/-- R221, R214: a mirror cycle whose transaction number `n` faults copied the frame, sent exactly the first `n` words,
started no engine and counted a fault, not a cycle. -/
def Obligations.MirrorFaultIsPrecise : Prop :=
  ∀ (n : Nat) (s : State), s.dev = .attached → s.gate = .heldIRQ → s.mirror = .mirroring → s.irqSeqPc = 0 →
    s.busPlan = some n → n < 25 →
    ∃ t, exec .mirror s = .next t
      ∧ t.trace = s.trace ++ (mirrorWords s.cfg s.width s.height).take n
      ∧ t.unusable = true ∧ t.gate = .free ∧ t.mirror = .idle ∧ t.handler = .idle
      ∧ t.faultCount = s.faultCount + 1 ∧ t.mirrorCount = s.mirrorCount
      ∧ t.ctl.winValid = false ∧ t.ctl.curValid = false ∧ t.ctl.writeArmed = false
      ∧ t.irqSeqPc = s.width * s.height * 2 + n
      ∧ t.events = s.events ∧ t.engineActive = s.engineActive
      ∧ t.fgs = deviceLost s.fgs
      ∧ t.fb = s.fb
      ∧ ∀ i, sbRead t i = if i < s.width * s.height * 2 then some (fbRead s i) else sbRead s i

/-! ### RequestArbiter -/

/-- R106, R215, R200, R218: an undecodable descriptor (`H0` none of the three codes, or a must-be-zero field not 0) is
answered `Illegal`, whatever the device; a decodable one on an unusable or detached device BusFault; nothing else
changes. -/
def Obligations.SubmitRefusals : Prop :=
  ∀ (k : Nat) (d : Descriptor) (s : State), slotOf s k = some .empty →
    ((d.h0 = 0x0001 ∧ d.h5 = 0) ∨ d.h0 = 0x0002 ∨ (d.h0 = 0x0003 ∧ d.h4 = 0 ∧ d.h5 = 0) →
      s.dev = .detached ∨ s.unusable = true →
      exec (.submit k d) s = .next { s with fgs := s.fgs.modify k (withSlot (.done .busFault)) })
    ∧ (¬ ((d.h0 = 0x0001 ∧ d.h5 = 0) ∨ d.h0 = 0x0002 ∨ (d.h0 = 0x0003 ∧ d.h4 = 0 ∧ d.h5 = 0)) →
      exec (.submit k d) s = .next { s with fgs := s.fgs.modify k (withSlot (.done .illegal)) })

/-- R141: a fill is answered SizeMismatch, with no other effect, unless `x0 <= x1 <= W-1`, `y0 <= y1 <= H-1` and
`plen = 0`; otherwise it waits for the gate (R184 step 4). -/
def Obligations.SubmitFillrect : Prop :=
  ∀ (k : Nat) (d : Descriptor) (s : State), slotOf s k = some .empty → s.dev = .attached → s.unusable = false →
    d.h0 = 0x0002 →
    exec (.submit k d) s = .next { s with fgs := s.fgs.modify k (withSlot (
      if d.h1.toNat ≤ d.h2.toNat ∧ d.h2.toNat ≤ s.width - 1 ∧ d.h3.toNat ≤ d.h4.toNat ∧ d.h4.toNat ≤ s.height - 1
        ∧ d.h6 = 0 ∧ d.h7 = 0
      then .waiting (.fillrect d.h1 d.h2 d.h3 d.h4 d.h5 0) 0 else .done .sizeMismatch)) }

/-- R143: a blit is answered SizeMismatch, with no other effect, unless (a), (b) and (c) hold; otherwise it waits for
the gate. The producer delivers the `plen` bytes it declares (R245 (b)). -/
def Obligations.SubmitBlit : Prop :=
  ∀ (k : Nat) (d : Descriptor) (s : State), slotOf s k = some .empty → s.dev = .attached → s.unusable = false →
    d.h0 = 0x0001 → d.h5 = 0 → d.wf = true →
    exec (.submit k d) s = .next { s with fgs := s.fgs.modify k (withSlot (
      if d.payload.length = d.h3.toNat * d.h4.toNat * 2 ∧ 1 ≤ d.h3.toNat ∧ 1 ≤ d.h4.toNat
        ∧ d.h1.toNat + d.h3.toNat - 1 ≤ s.width - 1 ∧ d.h2.toNat + d.h4.toNat - 1 ≤ s.height - 1
      then .waiting (.blit d.h1 d.h2 d.h3 d.h4 d.payload) 0 else .done .sizeMismatch)) }

/-- R146: a text run is answered SizeMismatch, with no other effect, unless its origin is on the screen; otherwise it
waits for the gate. The producer delivers the `plen` bytes it declares (R245 (b)). -/
def Obligations.SubmitTextrun : Prop :=
  ∀ (k : Nat) (d : Descriptor) (s : State), slotOf s k = some .empty → s.dev = .attached → s.unusable = false →
    d.h0 = 0x0003 → d.h4 = 0 → d.h5 = 0 → d.wf = true →
    exec (.submit k d) s = .next { s with fgs := s.fgs.modify k (withSlot (
      if d.h1.toNat ≤ s.width - 1 ∧ d.h2.toNat ≤ s.height - 1
      then .waiting (.textrun d.h1 d.h2 d.h3 d.payload) 0 else .done .sizeMismatch)) }

/-- R181: `ACQ` of a waiting agent takes the free gate and starts the request at `seq_pc = 0`. -/
def Obligations.AcqTakesFreeGate : Prop :=
  ∀ (k : Nat) (r : Request) (t : Nat) (s : State), slotOf s k = some (.waiting r t) → s.dev = .attached →
    s.unusable = false → s.gate = .free →
    exec (.acq k) s = .next { s with gate := .heldFG k, fgs := s.fgs.modify k fun _ => ⟨.running r, 0⟩ }

/-- R181, R185: `ACQ` of an agent that finds the gate held waits, or ends with ArbitrationTimeout once
`t >= ARB_TIMEOUT`; nothing else changes. One `Tick` makes every wait 1 longer and changes nothing else. That a waiting
`ACQ` answers the unchanged state is log entry 17 (DESIGN CHOICE); that the timeout fires at the agent's own move, and
that a `Tick` is a move of the environment, is log entry 26 (DEDUCED). -/
def Obligations.AcqWaitsOrTimesOut : Prop :=
  (∀ (k : Nat) (r : Request) (t : Nat) (s : State), slotOf s k = some (.waiting r t) → s.dev = .attached →
    s.unusable = false → s.gate ≠ .free →
    exec (.acq k) s = .next (if s.cfg.arbTimeout ≤ t
      then { s with fgs := s.fgs.modify k (withSlot (.done .arbitrationTimeout)) } else s))
  ∧ ∀ s : State, moveStep .tick s = .next { s with fgs := oneTickLater s.fgs }

/-- R182, R161, R167: `TRYACQ` at its place in the handler takes the free gate of a usable device and starts a mirror
cycle; with the gate held the cycle is dropped: nothing but the handler's position changes, no counter among it. The
premise of a usable device is R215's, and that the entry into Mirroring is one step with the acquisition is log
entry 12 (DEDUCED). -/
def Obligations.TryacqAcquiresOrSkips : Prop :=
  ∀ s : State, s.dev = .attached → s.handler = .tryAcq → s.unusable = false → s.mirror = .idle →
    exec .tryacq s = .next (if s.gate = .free
      then { s with gate := .heldIRQ, irqSeqPc := 0, mirror := .mirroring, handler := .cycle }
      else { s with handler := .idle })

/-- R183, R184 step 7, R168: `REL` after the last micro-step of a request frees the gate and returns `Ok`; after the
last of a mirror cycle it counts the cycle, frees the gate and goes back to Idle. R183's `REL` is the freeing alone: that
the result, or the count and the handler's return, is one step with it is log entry 12 (DEDUCED). -/
def Obligations.RelCompletes : Prop :=
  ∀ s : State, s.dev = .attached →
    (∀ k r, s.gate = .heldFG k →
      s.fgs[k]? = some ⟨.running r, (requestWords s.cfg s.width s.height r).length⟩ →
      (∀ x0 y0 w h bytes, r = .blit x0 y0 w h bytes → bytes.length = w.toNat * h.toNat * 2) →
      exec .rel s = .next { s with gate := .free, fgs := s.fgs.modify k (withSlot (.done .ok)) })
    ∧ (s.gate = .heldIRQ → s.mirror = .mirroring → s.irqSeqPc = s.width * s.height * 2 + 26 →
      exec .rel s = .next { s with
        gate := .free, mirror := .idle, handler := .idle, mirrorCount := s.mirrorCount + 1 })

/-! ### DrawingPrimitives -/

/-- R140: a valid `FILLRECT` by the agent that runs it, every transaction delivered. -/
def Obligations.FillrectCompletes : Prop :=
  ∀ (x0 x1 y0 y1 c : Half) (k : Nat) (s : State), s.dev = .attached → s.gate = .heldFG k →
    s.fgs[k]? = some ⟨.running (.fillrect x0 x1 y0 y1 c 0), 0⟩ →
    x0.toNat ≤ x1.toNat → x1.toNat ≤ s.width - 1 → y0.toNat ≤ y1.toNat → y1.toNat ≤ s.height - 1 →
    paramsWf s.cfg = true → busDelivers s (41 + fillPixels x0 x1 y0 y1) →
    exec (.fillrect x0 x1 y0 y1 c []) s = .next { s with
      busPlan := busPlanAfter s (41 + fillPixels x0 x1 y0 y1)
      trace := s.trace ++ fillWords s.cfg s.width s.height x0 x1 y0 y1 c
      ctl := { s.ctl with
        winX0 := 0, winX1 := BitVec.ofNat 16 (s.width - 1), winY0 := 0, winY1 := BitVec.ofNat 16 (s.height - 1)
        curX := x0, curY := y0, winValid := true, curValid := false, writeArmed := false
        sel := s.cfg.regWinY1H, selValid := true
        shd := (highPart (BitVec.ofNat 16 (s.height - 1))).value, shdValid := true }
      chip := chipRun s.cfg s.engineActive (fillWords s.cfg s.width s.height x0 x1 y0 y1 c) s.chip
      gate := .free
      fgs := s.fgs.modify k fun _ => ⟨.done .ok, 41 + fillPixels x0 x1 y0 y1⟩ }

/-- R142: a valid `BLIT` by the agent that runs it, every transaction delivered; with `BLIT_RESTORE_WINDOW` the state
after it is as after `FILLRECT`, without it the blit's own window stays. -/
def Obligations.BlitCompletes : Prop :=
  ∀ (x0 y0 w h : Half) (bytes : List Byte) (k : Nat) (s : State), s.dev = .attached → s.gate = .heldFG k →
    s.fgs[k]? = some ⟨.running (.blit x0 y0 w h bytes), 0⟩ →
    bytes.length = w.toNat * h.toNat * 2 → 1 ≤ w.toNat → 1 ≤ h.toNat →
    x0.toNat + w.toNat - 1 ≤ s.width - 1 → y0.toNat + h.toNat - 1 ≤ s.height - 1 →
    paramsWf s.cfg = true → busDelivers s (blitWords s.cfg s.width s.height x0 y0 w h bytes).length →
    exec (.blit x0 y0 w h bytes) s = .next { s with
      busPlan := busPlanAfter s (blitWords s.cfg s.width s.height x0 y0 w h bytes).length
      trace := s.trace ++ blitWords s.cfg s.width s.height x0 y0 w h bytes
      ctl :=
        if s.cfg.blitRestoreWindow then { s.ctl with
          winX0 := 0, winX1 := BitVec.ofNat 16 (s.width - 1), winY0 := 0, winY1 := BitVec.ofNat 16 (s.height - 1)
          curX := x0, curY := y0, winValid := true, curValid := false, writeArmed := false
          sel := s.cfg.regWinY1H, selValid := true
          shd := (highPart (BitVec.ofNat 16 (s.height - 1))).value, shdValid := true }
        else { s.ctl with
          winX0 := x0, winX1 := BitVec.ofNat 16 (x0.toNat + w.toNat - 1)
          winY0 := y0, winY1 := BitVec.ofNat 16 (y0.toNat + h.toNat - 1)
          curX := x0, curY := y0, winValid := true, curValid := false, writeArmed := true
          sel := s.cfg.regMrw, selValid := true
          shd := blitPixel bytes (w.toNat * h.toNat - 1), shdValid := true }
      chip := chipRun s.cfg s.engineActive (blitWords s.cfg s.width s.height x0 y0 w h bytes) s.chip
      gate := .free
      fgs := s.fgs.modify k fun _ => ⟨.done .ok, (blitWords s.cfg s.width s.height x0 y0 w h bytes).length⟩ }

/-- R145: a valid `TEXTRUN` by the agent that runs it, every transaction delivered; the window is untouched. -/
def Obligations.TextrunCompletes : Prop :=
  ∀ (x y c : Half) (bytes : List Byte) (k : Nat) (s : State), s.dev = .attached → s.gate = .heldFG k →
    s.fgs[k]? = some ⟨.running (.textrun x y c bytes), 0⟩ →
    x.toNat ≤ s.width - 1 → y.toNat ≤ s.height - 1 →
    paramsWf s.cfg = true → busDelivers s (textWordsOf s.cfg x y c bytes).length →
    exec (.textrun x y c bytes) s = .next { s with
      busPlan := busPlanAfter s (textWordsOf s.cfg x y c bytes).length
      trace := s.trace ++ textWordsOf s.cfg x y c bytes
      ctl := { s.ctl with
        curX := x, curY := y, curValid := bytes.isEmpty, writeArmed := true
        sel := s.cfg.regMrw, selValid := true
        shd := ((bytes.map fun b => BitVec.ofNat 16 b.toNat).getLast?).getD (highPart y).value, shdValid := true }
      chip := chipRun s.cfg s.engineActive (textWordsOf s.cfg x y c bytes) s.chip
      gate := .free
      fgs := s.fgs.modify k fun _ => ⟨.done .ok, (textWordsOf s.cfg x y c bytes).length⟩ }

/-- R141, R143, R146: a drawing operation that fails validation ends with SizeMismatch and sends nothing. That the
check is made on the held gate is the model's choice for this unreached case (log entry 14). -/
def Obligations.InvalidDrawingSendsNothing : Prop :=
  ∀ (r : Request) (k : Nat) (s : State), s.dev = .attached → s.gate = .heldFG k → slotOf s k = some (.running r) →
    validRequest s.width s.height r = false →
    exec (drawingOf r) s = .next { s with
      gate := .free, fgs := s.fgs.modify k (withSlot (.done .sizeMismatch)) }

/-- R140, R70: on the reference chip, with no engine pass under way, a fill puts its colour into every cell of the
rectangle and leaves every other cell as it was. -/
def Obligations.FillrectPaintsRectangle : Prop :=
  ∀ (x0 x1 y0 y1 c : Half) (k : Nat) (s t : State), s.gate = .heldFG k →
    s.fgs[k]? = some ⟨.running (.fillrect x0 x1 y0 y1 c 0), 0⟩ →
    x0.toNat ≤ x1.toNat → x1.toNat ≤ s.width - 1 → y0.toNat ≤ y1.toNat → y1.toNat ≤ s.height - 1 →
    paramsWf s.cfg = true → s.engineActive = false → busDelivers s (41 + fillPixels x0 x1 y0 y1) →
    exec (.fillrect x0 x1 y0 y1 c []) s = .next t →
    ∀ x y : Half, chipCell t.chip x.toNat y.toNat =
      if x0.toNat ≤ x.toNat ∧ x.toNat ≤ x1.toNat ∧ y0.toNat ≤ y.toNat ∧ y.toNat ≤ y1.toNat then some c
      else chipCell s.chip x.toNat y.toNat

/-- R142, R70: on the reference chip, with no engine pass under way, a blit puts pixel `r*w + col` into the cell of row
`r` and column `col` of its rectangle and leaves every other cell as it was. -/
def Obligations.BlitPaintsRectangle : Prop :=
  ∀ (x0 y0 w h : Half) (bytes : List Byte) (k : Nat) (s t : State), s.gate = .heldFG k →
    s.fgs[k]? = some ⟨.running (.blit x0 y0 w h bytes), 0⟩ →
    bytes.length = w.toNat * h.toNat * 2 → 1 ≤ w.toNat → 1 ≤ h.toNat →
    x0.toNat + w.toNat - 1 ≤ s.width - 1 → y0.toNat + h.toNat - 1 ≤ s.height - 1 → screenInRange s →
    paramsWf s.cfg = true → s.engineActive = false →
    busDelivers s (blitWords s.cfg s.width s.height x0 y0 w h bytes).length →
    exec (.blit x0 y0 w h bytes) s = .next t →
    ∀ x y : Half, chipCell t.chip x.toNat y.toNat =
      if x0.toNat ≤ x.toNat ∧ x.toNat < x0.toNat + w.toNat ∧ y0.toNat ≤ y.toNat ∧ y.toNat < y0.toNat + h.toNat
      then some (blitPixel bytes ((y.toNat - y0.toNat) * w.toNat + (x.toNat - x0.toNat)))
      else chipCell s.chip x.toNat y.toNat

/-- R134, R250, R40 item 6: in the transactions that the micro-steps of every request and of the mirror cycle send,
whatever came before them, each "prepare RAM write" finds a complete cursor-set sequence since the last window register
was selected; a colour sequence that selects `REG_MRW` itself is excluded. And every step keeps it true that each
`BEGINWR` that the operation under way still has to execute finds `cur_valid = 1`, and `win_valid = 1` unless it is a
`TEXTRUN`'s; so the `BEGINWR` the holder is about to execute finds them. An operation that the holder is made to
execute beside its own list, which no port offers, is excluded (log entry 13). -/
def Obligations.CursorSetBeforeBurst : Prop :=
  (∀ (p : Params) (w h : Nat) (q : CursorScan), paramsWf p = true →
    cursorBeforeBurst p q (busWords (mirrorSteps p w h))
    ∧ ∀ r : Request,
      (∀ x y c bytes, r = .textrun x y c bytes → ∀ e ∈ colorWrites p.fgColorSeq c, e.1 ≠ p.regMrw) →
      cursorBeforeBurst p q (busWords (requestSteps p w h r)))
  ∧ (∀ s t : State, GateInv s → BurstInv s → onlyTheList s → step s = .next t → BurstInv t)
  ∧ ∀ (s : State) (m : Micro) (ms : List Micro), BurstInv s → holderRest s = some (m :: ms) → m ∈ beginwrSteps s.cfg →
    s.ctl.curValid = true ∧ (setsWindow s = true → s.ctl.winValid = true)

/-! ### MirrorPipeline -/

/-- R160, R200: the interrupt signal is latched while attached and ignored while detached; nothing else changes. -/
def Obligations.IrqArrives : Prop :=
  ∀ s : State, exec .irq s = .next (if s.dev = .attached then { s with irqPending := true } else s)

/-- R161: with an interrupt pending, `IRQA` clears the latch, reads the status, and acknowledges exactly the value
read; the acknowledged bits are cleared on the host side (log entry 3). -/
def Obligations.HandlerReadsAndAcknowledges : Prop :=
  ∀ s : State, s.dev = .attached → s.handler = .idle → s.irqPending = true →
    irqaStep (irqaStep s) = { s with
      irqPending := false
      events := s.events ++ [.statusRead s.hostStatus, .statusAck s.hostStatus]
      hostStatus := 0
      handler := .decide s.hostStatus }

/-- R162, R163, R170: the handler's decision. On an unusable device nothing; bit 2 or bit 5 set: `fault_count` plus 1
and nothing else; otherwise on to `TRYACQ` with `engine_active` cleared. -/
def Obligations.HandlerDecides : Prop :=
  ∀ (v : Word) (s : State), s.dev = .attached → s.handler = .decide v → s.mirror = .idle →
    irqaStep s =
      if s.unusable = true then { s with handler := .idle }
      else if v.getLsbD 2 = true ∨ v.getLsbD 5 = true then { s with faultCount := s.faultCount + 1, handler := .idle }
      else { s with engineActive := false, handler := .tryAcq }

/-- R165, R78: a copy micro-step of `IRQA` makes one StagingBuffer byte, the next in ascending order, what the
FrameBuffer's byte is at that moment, and changes nothing else but `seq_pc`; the writers of either buffer may move
between two of them. `COPYFRAME` as one operation at the start of a cycle, nobody moving in between (log
entry 15, DESIGN CHOICE), makes every StagingBuffer byte the FrameBuffer's, sends nothing and changes nothing else but
`seq_pc`. -/
def Obligations.CopyframeCopies : Prop :=
  (∀ s : State, s.dev = .attached → s.gate = .heldIRQ → s.mirror = .mirroring → s.irqSeqPc = 0 →
    ∃ m, exec .copyframe s = .next { s with sb := m, irqSeqPc := s.width * s.height * 2 }
      ∧ ∀ i, sparseRead i m = if i < s.width * s.height * 2 then some (fbRead s i) else sbRead s i)
  ∧ ∀ s : State, s.dev = .attached → s.gate = .heldIRQ → s.mirror = .mirroring → s.handler = .cycle →
    s.irqSeqPc < s.width * s.height * 2 →
    ∃ m, irqaStep s = { s with sb := m, irqSeqPc := s.irqSeqPc + 1 }
      ∧ ∀ j, sparseRead j m = if j = s.irqSeqPc then some (fbRead s j) else sbRead s j

/-- R166, R168: `MIRROR` from the start of a cycle, every transaction delivered; what the display shows once the
engine runs is unspecified (R256, log entry 18). -/
def Obligations.MirrorCompletes : Prop :=
  ∀ s : State, s.dev = .attached → s.gate = .heldIRQ → s.mirror = .mirroring → s.irqSeqPc = 0 →
    paramsWf s.cfg = true → busDelivers s 25 →
    ∃ m, exec .mirror s = .next { s with
        busPlan := busPlanAfter s 25
        trace := s.trace ++ mirrorWords s.cfg s.width s.height
        events := s.events ++ [.engineStart]
        sb := m
        ctl := { s.ctl with
          winX0 := 0, winX1 := BitVec.ofNat 16 (s.width - 1), winY0 := 0, winY1 := BitVec.ofNat 16 (s.height - 1)
          curX := 0, curY := 0, winValid := true, curValid := true, writeArmed := true
          sel := s.cfg.regMrw, selValid := true, shd := 0, shdValid := true }
        chip := chipDisturb (chipRun s.cfg s.engineActive (mirrorWords s.cfg s.width s.height) s.chip)
        engineActive := true
        irqSeqPc := s.width * s.height * 2 + 26
        mirrorCount := s.mirrorCount + 1
        gate := .free
        mirror := .idle
        handler := .idle }
      ∧ ∀ i, sparseRead i m = if i < s.width * s.height * 2 then some (fbRead s i) else sbRead s i

/-- R83: two mirror cycles over the same FrameBuffer contents leave the same StagingBuffer bytes, whatever was in it
before each. -/
def Obligations.MirrorIsIdempotent : Prop :=
  ∀ s1 s2 t1 t2 : State, s1.irqSeqPc = 0 → s2.irqSeqPc = 0 →
    busDelivers s1 25 → busDelivers s2 25 → s1.width = s2.width → s1.height = s2.height →
    (∀ i, i < s1.width * s1.height * 2 → fbRead s1 i = fbRead s2 i) →
    exec .mirror s1 = .next t1 → exec .mirror s2 = .next t2 →
    ∀ i, i < s1.width * s1.height * 2 → sbRead t1 i = sbRead t2 i ∧ sbRead t1 i = some (fbRead s1 i)

/-- R169: `IRQA` never waits: inside a handler, or with an interrupt pending, its step always gets it further. -/
def Obligations.InterruptContextNeverWaits : Prop :=
  ∀ s : State, GateInv s → s.dev = .attached → s.handler ≠ .idle ∨ s.irqPending = true → irqaStep s ≠ s

/-! ### Lifecycle -/

/-- R195, R39, R196, R241: an accepted `ATTACH`, its initialisation delivered, the chip known by that alone and its
window and pointer not at all (log entry 18). The address
of the StagingBuffer and, with an empty `INIT_TABLE`, the values of `SEL` and `SHD` are free ones (log entries 8, 9);
what is outside the block, the traces, the returned results and host memory, stays as it was (log entry 7, DEDUCED). -/
def Obligations.AttachCompletes : Prop :=
  ∀ (w h fbBase fbSize : Nat) (s : State), s.dev = .detached → 1 ≤ w → w ≤ 65536 → 1 ≤ h → h ≤ 65536 →
    fbSize = w * h * 2 → busDelivers s (initWords s.cfg).length →
    ∃ c : Ctl, exec (.attach w h fbBase fbSize) s = .next { s with
        busPlan := busPlanAfter s (initWords s.cfg).length
        trace := s.trace ++ initWords s.cfg
        chip := chipAfterInit (chipRun s.cfg false (initWords s.cfg) unknownChip)
        ctl := c
        dev := .attached, unusable := false, initDue := false, detachPending := false
        width := w, height := h, fbBase := fbBase, sbBase := Config.sbBase s.freeCtr
        gate := .free, mirror := .idle, handler := .idle, irqPending := false, irqSeqPc := 0, engineActive := false
        mirrorCount := 0, faultCount := 0
        fgs := s.fgs.map fun _ => ⟨.empty, 0⟩
        sb := []
        freeCtr := s.freeCtr + 1 }
      ∧ c.curX = 0 ∧ c.curY = 0
      ∧ c.winX0 = 0 ∧ c.winX1.toNat = w - 1 ∧ c.winY0 = 0 ∧ c.winY1.toNat = h - 1
      ∧ c.winValid = false ∧ c.curValid = false ∧ c.writeArmed = false
      ∧ (s.cfg.initTable = [] → c.selValid = false ∧ c.shdValid = false)
      ∧ ∀ e, s.cfg.initTable.getLast? = some e →
          c.sel = e.reg ∧ c.shd = e.value ∧ c.selValid = true ∧ c.shdValid = true

/-- R195: `ATTACH` with sizes out of range or a FrameBuffer of another size is refused: no state change. -/
def Obligations.AttachRefusesBadArguments : Prop :=
  ∀ (w h fbBase fbSize : Nat) (s : State), s.dev = .detached →
    ¬ (1 ≤ w ∧ w ≤ 65536 ∧ 1 ≤ h ∧ h ≤ 65536 ∧ fbSize = w * h * 2) →
    exec (.attach w h fbBase fbSize) s = .next s

/-- R196: `INITSEQ` inside `ATTACH` replays the table in order, delivered: two transactions a tuple; `CUR_*`, `WIN_*`,
`win_valid` are untouched, and the reference chip's window and pointer count as unknown (log entry 18). -/
def Obligations.InitseqReplays : Prop :=
  ∀ s : State, s.dev = .attached → s.initDue = true → busDelivers s (initWords s.cfg).length →
    ∃ c : Ctl, exec .initseq s = .next { s with
        initDue := false
        busPlan := busPlanAfter s (initWords s.cfg).length
        trace := s.trace ++ initWords s.cfg
        chip := chipAfterInit (chipRun s.cfg s.engineActive (initWords s.cfg) s.chip)
        ctl := c }
      ∧ c.curX = s.ctl.curX ∧ c.curY = s.ctl.curY ∧ c.winX0 = s.ctl.winX0 ∧ c.winX1 = s.ctl.winX1
      ∧ c.winY0 = s.ctl.winY0 ∧ c.winY1 = s.ctl.winY1 ∧ c.winValid = s.ctl.winValid
      ∧ (s.ctl.writeArmed = false → c.curValid = s.ctl.curValid ∧ c.writeArmed = false)
      ∧ (s.cfg.initTable = [] → c = s.ctl)
      ∧ ∀ e, s.cfg.initTable.getLast? = some e →
          c.sel = e.reg ∧ c.shd = e.value ∧ c.selValid = true ∧ c.shdValid = true

/-- R197: a `Fault` during the initialisation of an accepted `ATTACH` stops it there and leaves the device attached and
unusable. -/
def Obligations.InitseqFaultStops : Prop :=
  ∀ (w h fbBase n : Nat) (s : State), s.dev = .detached → 1 ≤ w → w ≤ 65536 → 1 ≤ h → h ≤ 65536 →
    s.busPlan = some n → n < (initWords s.cfg).length →
    ∃ t, exec (.attach w h fbBase (w * h * 2)) s = .next t ∧ t.trace = s.trace ++ (initWords s.cfg).take n
      ∧ t.dev = .attached ∧ t.unusable = true ∧ t.gate = .free ∧ t.initDue = false
      ∧ t.width = w ∧ t.height = h ∧ t.fbBase = fbBase

/-- R198: `DETACH` with the gate free and no handler running: waiting requests fail, other slots keep what they hold,
the StagingBuffer is freed, and what `ATTACH` defined goes back to the model's power-on values, the chip to unknown
(log entry 7). -/
def Obligations.DetachFrees : Prop :=
  ∀ s : State, s.dev = .attached → s.gate = .free → s.handler = .idle →
    exec .detach s = .next { s with
      dev := .detached, unusable := false, initDue := false, detachPending := false
      width := 0, height := 0, fbBase := 0, sbBase := 0, ctl := State.reset.ctl
      mirror := .idle, irqPending := false, irqSeqPc := 0, engineActive := false
      mirrorCount := 0, faultCount := 0
      fgs := (deviceLost s.fgs).map fun f => ⟨f.slot, 0⟩
      sb := []
      chip := unknownChip }

/-- R198: `DETACH` while the gate is held or a handler runs is not enabled: nothing is freed, its caller waits, and the
host's own step later detaches exactly when it is enabled (log entry 17). -/
def Obligations.DetachWaits : Prop :=
  ∀ s : State, s.dev = .attached →
    (s.gate ≠ .free ∨ s.handler ≠ .idle →
      exec .detach s = .next { s with detachPending := true } ∧ hostStep { s with detachPending := true }
        = { s with detachPending := true })
    ∧ (s.gate = .free → s.handler = .idle → exec .detach s = .next (hostStep { s with detachPending := true }))

/-! ### The environment's moves -/

/-- R184 step 8, R11: the caller takes the result, the slot is `Empty` again, and `E` gains the completion. When and
with what `E` gains it is the model's choice (log entry 19). -/
def Obligations.CallerTakesResult : Prop :=
  ∀ (k : Nat) (res : Result) (s : State), slotOf s k = some (.done res) →
    takeResult k s = { s with
      returned := s.returned ++ [(k, res)]
      events := s.events ++ [.completion k res]
      fgs := s.fgs.modify k (withSlot .empty) }

/-- R64: a producer's write on an attached device changes the StagingBuffer byte it names and no other; the FrameBuffer
owner's write, at any time, changes the byte of host memory it names and no other (log entry 11). -/
def Obligations.ExternalWritesChangeOneByte : Prop :=
  (∀ (s : State) (i : Nat) (b : Byte), s.dev = .attached → i < s.width * s.height * 2 →
    ∃ t, moveStep (.sbWrite i b) s = .next t ∧ t = { s with sb := t.sb }
      ∧ ∀ j, sbRead t j = if j = i then some b else sbRead s j)
  ∧ ∀ (s : State) (a : Nat) (b : Byte),
    ∃ t, moveStep (.fbWrite a b) s = .next t ∧ t = { s with fb := t.fb }
      ∧ ∀ j, hostByte t j = if j = a then b else hostByte s j

/-! ### The whole machine -/

/-- R40 items 1, 2 and 4 to 7, and the canonical form of the memories, hold after power-on. R40 speaks of attached
states and R39 gives nothing but `dev` a value at power-on, so this rests on the values of log entry 7 (gate
Free, mirror Idle, flags 0, slots Empty; DESIGN CHOICE) and on the memories' form of log entry 10. -/
def Obligations.InvariantsHoldAtReset : Prop :=
  GateInv State.reset ∧ memoriesWf State.reset ∧ WindowInv State.reset ∧ WindowBounds State.reset
    ∧ BurstInv State.reset

/-- R40 items 1, 2 and 7, with the invariants that carry them: every step keeps them, from every state. -/
def Obligations.GateInvKept : Prop := ∀ s t : State, GateInv s → step s = .next t → GateInv t

/-- Every step keeps the memories in their canonical form (the model's, log entry 10). -/
def Obligations.MemoriesWfKept : Prop := ∀ s t : State, memoriesWf s → step s = .next t → memoriesWf t

/-- R40 item 4, R254: with restoring blits, every step but a bare `SETWIN` keeps this: the window that the operation
under way leaves, or the present one where the gate is free, is full-screen or not trusted. -/
def Obligations.WindowRestoredKept : Prop :=
  ∀ s t : State, GateInv s → WindowInv s → s.cfg.blitRestoreWindow = true → noBareSetwin s → step s = .next t →
    WindowInv t

/-- R40 item 5: every step but a bare `SETWIN` keeps this: a trusted window is ordered and on the screen. -/
def Obligations.WindowStaysOnScreen : Prop :=
  ∀ s t : State, GateInv s → WindowBounds s → noBareSetwin s → step s = .next t → WindowBounds t

/-- R188, R76: while an agent holds the gate, no move of anybody else, and no `SUBMIT`, `IRQ`, `ACQ`, `TRYACQ`, `ATTACH`,
`INITSEQ` or `DETACH`, sends a transaction, changes the guarded registers and flags, takes the gate, ends or advances the
holder's operation, or counts a cycle. -/
def Obligations.HolderExcludesOthers : Prop :=
  ∀ s t : State, GateInv s →
    (∀ k, s.gate = .heldFG k → byAnother (.fg k) s t →
      t.trace = s.trace ∧ t.ctl = s.ctl ∧ t.gate = s.gate ∧ t.fgs[k]? = s.fgs[k]? ∧ t.mirrorCount = s.mirrorCount)
    ∧ (s.gate = .heldIRQ → byAnother .irqa s t →
      t.trace = s.trace ∧ t.ctl = s.ctl ∧ t.gate = s.gate ∧ t.irqSeqPc = s.irqSeqPc ∧ t.mirrorCount = s.mirrorCount)

/-- R26, R184, R166: a request, or a mirror cycle, run to its end in one operation leaves what its micro-steps leave one
at a time, a BusFault on the way included. -/
def Obligations.MicroStepsMakeTheOperation : Prop :=
  (∀ (k : Nat) (r : Request) (n : Nat) (s : State), s.gate = .heldFG k → s.fgs[k]? = some ⟨.running r, n⟩ →
    (fgStep k)^[(requestRest s k r).length + 1] s = holderRun s)
  ∧ ∀ s : State, s.dev = .attached → s.gate = .heldIRQ → s.mirror = .mirroring → s.handler = .cycle →
    s.irqPending = false → irqaStep^[(mirrorRest s).length + 1] s = holderRun s

/-- R215: on an unusable device no step sends a transaction or takes the gate, and it stays unusable until it is
detached. -/
def Obligations.UnusableUntilReattach : Prop :=
  ∀ s t : State, GateInv s → s.dev = .attached → s.unusable = true → step s = .next t →
    t.trace = s.trace ∧ t.gate = .free ∧ (t.unusable = true ∨ t.dev = .detached)

/-- R30: while attached, `mirror_count` changes only by 1 at the completion of a mirror cycle, and `fault_count` only by
1 at a SyncLoss decision or at a BusFault inside a mirror cycle. -/
def Obligations.CountersCountOnlyTheirEvents : Prop :=
  ∀ s t : State, GateInv s → s.dev = .attached → t.dev = .attached → step s = .next t →
    (t.mirrorCount = s.mirrorCount
      ∨ t.mirrorCount = s.mirrorCount + 1 ∧ s.gate = .heldIRQ ∧ t.gate = .free ∧ t.unusable = false)
    ∧ (t.faultCount = s.faultCount
      ∨ t.faultCount = s.faultCount + 1
        ∧ ((∃ v, s.handler = .decide v ∧ syncLoss v = true) ∨ s.gate = .heldIRQ ∧ t.unusable = true))

/-- R32, R199: no step writes the parameters, and between `ATTACH` and `DETACH` none writes `W`, `H`, `FB_BASE` or
`SB_BASE`. -/
def Obligations.ConfigurationIsConstant : Prop :=
  ∀ s t : State, step s = .next t → t.cfg = s.cfg
    ∧ (s.dev = .attached → t.dev = .attached →
        t.width = s.width ∧ t.height = s.height ∧ t.fbBase = s.fbBase ∧ t.sbBase = s.sbBase)

/-- R63: no operation and no agent of the block writes the FrameBuffer or any other byte of host memory. -/
def Obligations.BlockNeverWritesFrameBuffer : Prop :=
  (∀ (i : Instr) (s t : State), exec i s = .next t → ∀ a, hostByte t a = hostByte s a)
  ∧ (∀ (s : State) (a : Nat), hostByte (irqaStep s) a = hostByte s a)
  ∧ (∀ (k : Nat) (s : State) (a : Nat), hostByte (fgStep k s) a = hostByte s a)
end

