-- ==== Sys2Proof/Laws/Memory.lean ====
section
/-! SUPPORT. The laws of the sparse maps: what a write makes of every read, and that it keeps the canonical form. -/

namespace Sys2Proof.Machine

variable {α : Type}

@[simp] theorem sparseRead_nil (k : Nat) : sparseRead (α := α) k [] = none := rfl

/-- A key below every listed key reads as nothing. -/
theorem sparseRead_of_lt {k lo : Nat} (m : Sparse α) (hm : sparseFrom lo m = true) (hk : k < lo) :
    sparseRead k m = none := by
  induction m generalizing lo with
  | nil => rfl
  | cons e m ih =>
    obtain ⟨a, v⟩ := e
    simp only [sparseFrom, Bool.and_eq_true, decide_eq_true_eq] at hm
    have : a ≠ k := by omega
    simp [sparseRead, this, ih hm.2 (by omega)]

/-- A write is read back at its own key, and leaves every other key as it was. -/
@[simp] theorem sparseRead_write (k j : Nat) (v : α) (m : Sparse α) :
    sparseRead j (sparseWrite k v m) = if j = k then some v else sparseRead j m := by
  induction m with
  | nil => simp [sparseWrite, sparseRead, eq_comm]
  | cons e m ih =>
    obtain ⟨a, w⟩ := e
    unfold sparseWrite
    split
    · simp only [sparseRead, eq_comm (a := k)]
    · split
      · subst_vars
        by_cases h : j = a
        · simp [sparseRead, h]
        · simp [sparseRead, h, Ne.symm h]
      · simp only [sparseRead, ih]
        split
        · rw [if_neg]; omega
        · rfl

/-- A write keeps the keys strictly rising. -/
theorem sparseFrom_write {lo k : Nat} (v : α) (m : Sparse α) (hm : sparseFrom lo m = true) (hk : lo ≤ k) :
    sparseFrom lo (sparseWrite k v m) = true := by
  induction m generalizing lo with
  | nil => simp [sparseWrite, sparseFrom, hk]
  | cons e m ih =>
    obtain ⟨a, w⟩ := e
    simp only [sparseFrom, Bool.and_eq_true, decide_eq_true_eq] at hm
    unfold sparseWrite
    split
    · simp only [sparseFrom, Bool.and_eq_true, decide_eq_true_eq]
      exact ⟨hk, by omega, hm.2⟩
    · split
      · simp_all [sparseFrom]
      · simp only [sparseFrom, Bool.and_eq_true, decide_eq_true_eq]
        exact ⟨hm.1, ih hm.2 (by omega)⟩

/-- Every write keeps the canonical form. -/
theorem sparseWf_write (k : Nat) (v : α) (m : Sparse α) (hm : sparseWf m = true) :
    sparseWf (sparseWrite k v m) = true :=
  sparseFrom_write v m hm (Nat.zero_le k)

@[simp] theorem sparseWf_nil : sparseWf (α := α) [] = true := rfl

/-- A list of writes of a function's values: the last word is the function's on the keys written. -/
theorem sparseRead_foldl_write (f : Nat → α) (ks : List Nat) (j : Nat) (m : Sparse α) :
    sparseRead j (ks.foldl (fun m k => sparseWrite k (f k) m) m) = if j ∈ ks then some (f j) else sparseRead j m := by
  induction ks generalizing m with
  | nil => simp
  | cons k ks ih =>
    rw [List.foldl_cons, ih]
    by_cases h : j ∈ ks
    · simp [h]
    · by_cases hk : j = k <;> simp [h, hk]

/-- A list of writes keeps the canonical form. -/
theorem sparseWf_foldl_write (f : Nat → α) (ks : List Nat) (m : Sparse α) (hm : sparseWf m = true) :
    sparseWf (ks.foldl (fun m k => sparseWrite k (f k) m) m) = true := by
  induction ks generalizing m with
  | nil => exact hm
  | cons k ks ih => exact ih _ (sparseWf_write k (f k) m hm)

end Sys2Proof.Machine
end

