-- ==== Sys2Proof/Laws/State.lean ====
section
/-! SUPPORT. One lemma per field for each named update of the state: what the update makes of that field. -/

namespace Sys2Proof.Machine

/-! ### `setSlot` -/

section
variable (k : Nat) (v : Slot) (s : State)
@[simp] theorem setSlot_cfg : (setSlot k v s).cfg = s.cfg := rfl
@[simp] theorem setSlot_input : (setSlot k v s).input = s.input := rfl
@[simp] theorem setSlot_busPlan : (setSlot k v s).busPlan = s.busPlan := rfl
@[simp] theorem setSlot_hostStatus : (setSlot k v s).hostStatus = s.hostStatus := rfl
@[simp] theorem setSlot_ctl : (setSlot k v s).ctl = s.ctl := rfl
@[simp] theorem setSlot_dev : (setSlot k v s).dev = s.dev := rfl
@[simp] theorem setSlot_unusable : (setSlot k v s).unusable = s.unusable := rfl
@[simp] theorem setSlot_initDue : (setSlot k v s).initDue = s.initDue := rfl
@[simp] theorem setSlot_detachPending : (setSlot k v s).detachPending = s.detachPending := rfl
@[simp] theorem setSlot_width : (setSlot k v s).width = s.width := rfl
@[simp] theorem setSlot_height : (setSlot k v s).height = s.height := rfl
@[simp] theorem setSlot_fbBase : (setSlot k v s).fbBase = s.fbBase := rfl
@[simp] theorem setSlot_sbBase : (setSlot k v s).sbBase = s.sbBase := rfl
@[simp] theorem setSlot_gate : (setSlot k v s).gate = s.gate := rfl
@[simp] theorem setSlot_mirror : (setSlot k v s).mirror = s.mirror := rfl
@[simp] theorem setSlot_handler : (setSlot k v s).handler = s.handler := rfl
@[simp] theorem setSlot_irqPending : (setSlot k v s).irqPending = s.irqPending := rfl
@[simp] theorem setSlot_irqSeqPc : (setSlot k v s).irqSeqPc = s.irqSeqPc := rfl
@[simp] theorem setSlot_engineActive : (setSlot k v s).engineActive = s.engineActive := rfl
@[simp] theorem setSlot_mirrorCount : (setSlot k v s).mirrorCount = s.mirrorCount := rfl
@[simp] theorem setSlot_faultCount : (setSlot k v s).faultCount = s.faultCount := rfl
@[simp] theorem setSlot_fgs : (setSlot k v s).fgs = s.fgs.modify k fun f => { f with slot := v } := rfl
@[simp] theorem setSlot_fb : (setSlot k v s).fb = s.fb := rfl
@[simp] theorem setSlot_sb : (setSlot k v s).sb = s.sb := rfl
@[simp] theorem setSlot_chip : (setSlot k v s).chip = s.chip := rfl
@[simp] theorem setSlot_trace : (setSlot k v s).trace = s.trace := rfl
@[simp] theorem setSlot_events : (setSlot k v s).events = s.events := rfl
@[simp] theorem setSlot_returned : (setSlot k v s).returned = s.returned := rfl
@[simp] theorem setSlot_rdatValue : (setSlot k v s).rdatValue = s.rdatValue := rfl
@[simp] theorem setSlot_freeCtr : (setSlot k v s).freeCtr = s.freeCtr := rfl
end

/-! ### `setSeqPc` -/

section
variable (k n : Nat) (s : State)
@[simp] theorem setSeqPc_cfg : (setSeqPc k n s).cfg = s.cfg := rfl
@[simp] theorem setSeqPc_input : (setSeqPc k n s).input = s.input := rfl
@[simp] theorem setSeqPc_busPlan : (setSeqPc k n s).busPlan = s.busPlan := rfl
@[simp] theorem setSeqPc_hostStatus : (setSeqPc k n s).hostStatus = s.hostStatus := rfl
@[simp] theorem setSeqPc_ctl : (setSeqPc k n s).ctl = s.ctl := rfl
@[simp] theorem setSeqPc_dev : (setSeqPc k n s).dev = s.dev := rfl
@[simp] theorem setSeqPc_unusable : (setSeqPc k n s).unusable = s.unusable := rfl
@[simp] theorem setSeqPc_initDue : (setSeqPc k n s).initDue = s.initDue := rfl
@[simp] theorem setSeqPc_detachPending : (setSeqPc k n s).detachPending = s.detachPending := rfl
@[simp] theorem setSeqPc_width : (setSeqPc k n s).width = s.width := rfl
@[simp] theorem setSeqPc_height : (setSeqPc k n s).height = s.height := rfl
@[simp] theorem setSeqPc_fbBase : (setSeqPc k n s).fbBase = s.fbBase := rfl
@[simp] theorem setSeqPc_sbBase : (setSeqPc k n s).sbBase = s.sbBase := rfl
@[simp] theorem setSeqPc_gate : (setSeqPc k n s).gate = s.gate := rfl
@[simp] theorem setSeqPc_mirror : (setSeqPc k n s).mirror = s.mirror := rfl
@[simp] theorem setSeqPc_handler : (setSeqPc k n s).handler = s.handler := rfl
@[simp] theorem setSeqPc_irqPending : (setSeqPc k n s).irqPending = s.irqPending := rfl
@[simp] theorem setSeqPc_irqSeqPc : (setSeqPc k n s).irqSeqPc = s.irqSeqPc := rfl
@[simp] theorem setSeqPc_engineActive : (setSeqPc k n s).engineActive = s.engineActive := rfl
@[simp] theorem setSeqPc_mirrorCount : (setSeqPc k n s).mirrorCount = s.mirrorCount := rfl
@[simp] theorem setSeqPc_faultCount : (setSeqPc k n s).faultCount = s.faultCount := rfl
@[simp] theorem setSeqPc_fgs : (setSeqPc k n s).fgs = s.fgs.modify k fun f => { f with seqPc := n } := rfl
@[simp] theorem setSeqPc_fb : (setSeqPc k n s).fb = s.fb := rfl
@[simp] theorem setSeqPc_sb : (setSeqPc k n s).sb = s.sb := rfl
@[simp] theorem setSeqPc_chip : (setSeqPc k n s).chip = s.chip := rfl
@[simp] theorem setSeqPc_trace : (setSeqPc k n s).trace = s.trace := rfl
@[simp] theorem setSeqPc_events : (setSeqPc k n s).events = s.events := rfl
@[simp] theorem setSeqPc_returned : (setSeqPc k n s).returned = s.returned := rfl
@[simp] theorem setSeqPc_rdatValue : (setSeqPc k n s).rdatValue = s.rdatValue := rfl
@[simp] theorem setSeqPc_freeCtr : (setSeqPc k n s).freeCtr = s.freeCtr := rfl
end

/-! ### `failWaiting` -/

section
variable (s : State)
@[simp] theorem failWaiting_cfg : (failWaiting s).cfg = s.cfg := rfl
@[simp] theorem failWaiting_input : (failWaiting s).input = s.input := rfl
@[simp] theorem failWaiting_busPlan : (failWaiting s).busPlan = s.busPlan := rfl
@[simp] theorem failWaiting_hostStatus : (failWaiting s).hostStatus = s.hostStatus := rfl
@[simp] theorem failWaiting_ctl : (failWaiting s).ctl = s.ctl := rfl
@[simp] theorem failWaiting_dev : (failWaiting s).dev = s.dev := rfl
@[simp] theorem failWaiting_unusable : (failWaiting s).unusable = s.unusable := rfl
@[simp] theorem failWaiting_initDue : (failWaiting s).initDue = s.initDue := rfl
@[simp] theorem failWaiting_detachPending : (failWaiting s).detachPending = s.detachPending := rfl
@[simp] theorem failWaiting_width : (failWaiting s).width = s.width := rfl
@[simp] theorem failWaiting_height : (failWaiting s).height = s.height := rfl
@[simp] theorem failWaiting_fbBase : (failWaiting s).fbBase = s.fbBase := rfl
@[simp] theorem failWaiting_sbBase : (failWaiting s).sbBase = s.sbBase := rfl
@[simp] theorem failWaiting_gate : (failWaiting s).gate = s.gate := rfl
@[simp] theorem failWaiting_mirror : (failWaiting s).mirror = s.mirror := rfl
@[simp] theorem failWaiting_handler : (failWaiting s).handler = s.handler := rfl
@[simp] theorem failWaiting_irqPending : (failWaiting s).irqPending = s.irqPending := rfl
@[simp] theorem failWaiting_irqSeqPc : (failWaiting s).irqSeqPc = s.irqSeqPc := rfl
@[simp] theorem failWaiting_engineActive : (failWaiting s).engineActive = s.engineActive := rfl
@[simp] theorem failWaiting_mirrorCount : (failWaiting s).mirrorCount = s.mirrorCount := rfl
@[simp] theorem failWaiting_faultCount : (failWaiting s).faultCount = s.faultCount := rfl
@[simp] theorem failWaiting_fgs : (failWaiting s).fgs = s.fgs.map fun f => { f with slot := failSlot f.slot } := rfl
@[simp] theorem failWaiting_fb : (failWaiting s).fb = s.fb := rfl
@[simp] theorem failWaiting_sb : (failWaiting s).sb = s.sb := rfl
@[simp] theorem failWaiting_chip : (failWaiting s).chip = s.chip := rfl
@[simp] theorem failWaiting_trace : (failWaiting s).trace = s.trace := rfl
@[simp] theorem failWaiting_events : (failWaiting s).events = s.events := rfl
@[simp] theorem failWaiting_returned : (failWaiting s).returned = s.returned := rfl
@[simp] theorem failWaiting_rdatValue : (failWaiting s).rdatValue = s.rdatValue := rfl
@[simp] theorem failWaiting_freeCtr : (failWaiting s).freeCtr = s.freeCtr := rfl
end

/-! ### `endRequest` -/

section
variable (k : Nat) (res : Result) (s : State)
@[simp] theorem endRequest_cfg : (endRequest k res s).cfg = s.cfg := rfl
@[simp] theorem endRequest_input : (endRequest k res s).input = s.input := rfl
@[simp] theorem endRequest_busPlan : (endRequest k res s).busPlan = s.busPlan := rfl
@[simp] theorem endRequest_hostStatus : (endRequest k res s).hostStatus = s.hostStatus := rfl
@[simp] theorem endRequest_ctl : (endRequest k res s).ctl = s.ctl := rfl
@[simp] theorem endRequest_dev : (endRequest k res s).dev = s.dev := rfl
@[simp] theorem endRequest_unusable : (endRequest k res s).unusable = s.unusable := rfl
@[simp] theorem endRequest_initDue : (endRequest k res s).initDue = s.initDue := rfl
@[simp] theorem endRequest_detachPending : (endRequest k res s).detachPending = s.detachPending := rfl
@[simp] theorem endRequest_width : (endRequest k res s).width = s.width := rfl
@[simp] theorem endRequest_height : (endRequest k res s).height = s.height := rfl
@[simp] theorem endRequest_fbBase : (endRequest k res s).fbBase = s.fbBase := rfl
@[simp] theorem endRequest_sbBase : (endRequest k res s).sbBase = s.sbBase := rfl
@[simp] theorem endRequest_gate : (endRequest k res s).gate = .free := rfl
@[simp] theorem endRequest_mirror : (endRequest k res s).mirror = s.mirror := rfl
@[simp] theorem endRequest_handler : (endRequest k res s).handler = s.handler := rfl
@[simp] theorem endRequest_irqPending : (endRequest k res s).irqPending = s.irqPending := rfl
@[simp] theorem endRequest_irqSeqPc : (endRequest k res s).irqSeqPc = s.irqSeqPc := rfl
@[simp] theorem endRequest_engineActive : (endRequest k res s).engineActive = s.engineActive := rfl
@[simp] theorem endRequest_mirrorCount : (endRequest k res s).mirrorCount = s.mirrorCount := rfl
@[simp] theorem endRequest_faultCount : (endRequest k res s).faultCount = s.faultCount := rfl
@[simp] theorem endRequest_fgs : (endRequest k res s).fgs = s.fgs.modify k fun f => { f with slot := .done res } := rfl
@[simp] theorem endRequest_fb : (endRequest k res s).fb = s.fb := rfl
@[simp] theorem endRequest_sb : (endRequest k res s).sb = s.sb := rfl
@[simp] theorem endRequest_chip : (endRequest k res s).chip = s.chip := rfl
@[simp] theorem endRequest_trace : (endRequest k res s).trace = s.trace := rfl
@[simp] theorem endRequest_events : (endRequest k res s).events = s.events := rfl
@[simp] theorem endRequest_returned : (endRequest k res s).returned = s.returned := rfl
@[simp] theorem endRequest_rdatValue : (endRequest k res s).rdatValue = s.rdatValue := rfl
@[simp] theorem endRequest_freeCtr : (endRequest k res s).freeCtr = s.freeCtr := rfl
end

/-! ### `handlerReturn` -/

section
variable (s : State)
@[simp] theorem handlerReturn_cfg : (handlerReturn s).cfg = s.cfg := rfl
@[simp] theorem handlerReturn_input : (handlerReturn s).input = s.input := rfl
@[simp] theorem handlerReturn_busPlan : (handlerReturn s).busPlan = s.busPlan := rfl
@[simp] theorem handlerReturn_hostStatus : (handlerReturn s).hostStatus = s.hostStatus := rfl
@[simp] theorem handlerReturn_ctl : (handlerReturn s).ctl = s.ctl := rfl
@[simp] theorem handlerReturn_dev : (handlerReturn s).dev = s.dev := rfl
@[simp] theorem handlerReturn_unusable : (handlerReturn s).unusable = s.unusable := rfl
@[simp] theorem handlerReturn_initDue : (handlerReturn s).initDue = s.initDue := rfl
@[simp] theorem handlerReturn_detachPending : (handlerReturn s).detachPending = s.detachPending := rfl
@[simp] theorem handlerReturn_width : (handlerReturn s).width = s.width := rfl
@[simp] theorem handlerReturn_height : (handlerReturn s).height = s.height := rfl
@[simp] theorem handlerReturn_fbBase : (handlerReturn s).fbBase = s.fbBase := rfl
@[simp] theorem handlerReturn_sbBase : (handlerReturn s).sbBase = s.sbBase := rfl
@[simp] theorem handlerReturn_gate : (handlerReturn s).gate = s.gate := rfl
@[simp] theorem handlerReturn_mirror : (handlerReturn s).mirror = .idle := rfl
@[simp] theorem handlerReturn_handler : (handlerReturn s).handler = .idle := rfl
@[simp] theorem handlerReturn_irqPending : (handlerReturn s).irqPending = s.irqPending := rfl
@[simp] theorem handlerReturn_irqSeqPc : (handlerReturn s).irqSeqPc = s.irqSeqPc := rfl
@[simp] theorem handlerReturn_engineActive : (handlerReturn s).engineActive = s.engineActive := rfl
@[simp] theorem handlerReturn_mirrorCount : (handlerReturn s).mirrorCount = s.mirrorCount := rfl
@[simp] theorem handlerReturn_faultCount : (handlerReturn s).faultCount = s.faultCount := rfl
@[simp] theorem handlerReturn_fgs : (handlerReturn s).fgs = s.fgs := rfl
@[simp] theorem handlerReturn_fb : (handlerReturn s).fb = s.fb := rfl
@[simp] theorem handlerReturn_sb : (handlerReturn s).sb = s.sb := rfl
@[simp] theorem handlerReturn_chip : (handlerReturn s).chip = s.chip := rfl
@[simp] theorem handlerReturn_trace : (handlerReturn s).trace = s.trace := rfl
@[simp] theorem handlerReturn_events : (handlerReturn s).events = s.events := rfl
@[simp] theorem handlerReturn_returned : (handlerReturn s).returned = s.returned := rfl
@[simp] theorem handlerReturn_rdatValue : (handlerReturn s).rdatValue = s.rdatValue := rfl
@[simp] theorem handlerReturn_freeCtr : (handlerReturn s).freeCtr = s.freeCtr := rfl
end

/-! ### `deliver` -/

section
variable (w : BusWord) (s : State)
@[simp] theorem deliver_cfg : (deliver w s).cfg = s.cfg := rfl
@[simp] theorem deliver_input : (deliver w s).input = s.input := rfl
@[simp] theorem deliver_busPlan : (deliver w s).busPlan = s.busPlan := rfl
@[simp] theorem deliver_hostStatus : (deliver w s).hostStatus = s.hostStatus := rfl
@[simp] theorem deliver_ctl : (deliver w s).ctl = wordCtl s.cfg w s.ctl := rfl
@[simp] theorem deliver_dev : (deliver w s).dev = s.dev := rfl
@[simp] theorem deliver_unusable : (deliver w s).unusable = s.unusable := rfl
@[simp] theorem deliver_initDue : (deliver w s).initDue = s.initDue := rfl
@[simp] theorem deliver_detachPending : (deliver w s).detachPending = s.detachPending := rfl
@[simp] theorem deliver_width : (deliver w s).width = s.width := rfl
@[simp] theorem deliver_height : (deliver w s).height = s.height := rfl
@[simp] theorem deliver_fbBase : (deliver w s).fbBase = s.fbBase := rfl
@[simp] theorem deliver_sbBase : (deliver w s).sbBase = s.sbBase := rfl
@[simp] theorem deliver_gate : (deliver w s).gate = s.gate := rfl
@[simp] theorem deliver_mirror : (deliver w s).mirror = s.mirror := rfl
@[simp] theorem deliver_handler : (deliver w s).handler = s.handler := rfl
@[simp] theorem deliver_irqPending : (deliver w s).irqPending = s.irqPending := rfl
@[simp] theorem deliver_irqSeqPc : (deliver w s).irqSeqPc = s.irqSeqPc := rfl
@[simp] theorem deliver_engineActive : (deliver w s).engineActive = s.engineActive := rfl
@[simp] theorem deliver_mirrorCount : (deliver w s).mirrorCount = s.mirrorCount := rfl
@[simp] theorem deliver_faultCount : (deliver w s).faultCount = s.faultCount := rfl
@[simp] theorem deliver_fgs : (deliver w s).fgs = s.fgs := rfl
@[simp] theorem deliver_fb : (deliver w s).fb = s.fb := rfl
@[simp] theorem deliver_sb : (deliver w s).sb = s.sb := rfl
@[simp] theorem deliver_chip : (deliver w s).chip = chipAfter s.cfg s.engineActive w s.chip := rfl
@[simp] theorem deliver_trace : (deliver w s).trace = s.trace ++ [w] := rfl
@[simp] theorem deliver_events : (deliver w s).events = s.events := rfl
@[simp] theorem deliver_returned : (deliver w s).returned = s.returned := rfl
@[simp] theorem deliver_rdatValue : (deliver w s).rdatValue = s.rdatValue := rfl
@[simp] theorem deliver_freeCtr : (deliver w s).freeCtr = s.freeCtr := rfl
end

/-! ### `applyMark` -/

section
variable (m : Mark) (s : State)
@[simp] theorem applyMark_cfg : (applyMark m s).cfg = s.cfg := rfl
@[simp] theorem applyMark_input : (applyMark m s).input = s.input := rfl
@[simp] theorem applyMark_busPlan : (applyMark m s).busPlan = s.busPlan := rfl
@[simp] theorem applyMark_hostStatus : (applyMark m s).hostStatus = s.hostStatus := rfl
@[simp] theorem applyMark_ctl : (applyMark m s).ctl = markCtl m s.ctl := rfl
@[simp] theorem applyMark_dev : (applyMark m s).dev = s.dev := rfl
@[simp] theorem applyMark_unusable : (applyMark m s).unusable = s.unusable := rfl
@[simp] theorem applyMark_initDue : (applyMark m s).initDue = s.initDue := rfl
@[simp] theorem applyMark_detachPending : (applyMark m s).detachPending = s.detachPending := rfl
@[simp] theorem applyMark_width : (applyMark m s).width = s.width := rfl
@[simp] theorem applyMark_height : (applyMark m s).height = s.height := rfl
@[simp] theorem applyMark_fbBase : (applyMark m s).fbBase = s.fbBase := rfl
@[simp] theorem applyMark_sbBase : (applyMark m s).sbBase = s.sbBase := rfl
@[simp] theorem applyMark_gate : (applyMark m s).gate = s.gate := rfl
@[simp] theorem applyMark_mirror : (applyMark m s).mirror = s.mirror := rfl
@[simp] theorem applyMark_handler : (applyMark m s).handler = s.handler := rfl
@[simp] theorem applyMark_irqPending : (applyMark m s).irqPending = s.irqPending := rfl
@[simp] theorem applyMark_irqSeqPc : (applyMark m s).irqSeqPc = s.irqSeqPc := rfl
@[simp] theorem applyMark_engineActive : (applyMark m s).engineActive = s.engineActive := rfl
@[simp] theorem applyMark_mirrorCount : (applyMark m s).mirrorCount = s.mirrorCount := rfl
@[simp] theorem applyMark_faultCount : (applyMark m s).faultCount = s.faultCount := rfl
@[simp] theorem applyMark_fgs : (applyMark m s).fgs = s.fgs := rfl
@[simp] theorem applyMark_fb : (applyMark m s).fb = s.fb := rfl
@[simp] theorem applyMark_sb : (applyMark m s).sb = s.sb := rfl
@[simp] theorem applyMark_chip : (applyMark m s).chip = s.chip := rfl
@[simp] theorem applyMark_trace : (applyMark m s).trace = s.trace := rfl
@[simp] theorem applyMark_events : (applyMark m s).events = s.events := rfl
@[simp] theorem applyMark_returned : (applyMark m s).returned = s.returned := rfl
@[simp] theorem applyMark_rdatValue : (applyMark m s).rdatValue = s.rdatValue := rfl
@[simp] theorem applyMark_freeCtr : (applyMark m s).freeCtr = s.freeCtr := rfl
end

/-! ### `engineStart` -/

section
variable (s : State)
@[simp] theorem engineStart_cfg : (engineStart s).cfg = s.cfg := rfl
@[simp] theorem engineStart_input : (engineStart s).input = s.input := rfl
@[simp] theorem engineStart_busPlan : (engineStart s).busPlan = s.busPlan := rfl
@[simp] theorem engineStart_hostStatus : (engineStart s).hostStatus = s.hostStatus := rfl
@[simp] theorem engineStart_ctl : (engineStart s).ctl = s.ctl := rfl
@[simp] theorem engineStart_dev : (engineStart s).dev = s.dev := rfl
@[simp] theorem engineStart_unusable : (engineStart s).unusable = s.unusable := rfl
@[simp] theorem engineStart_initDue : (engineStart s).initDue = s.initDue := rfl
@[simp] theorem engineStart_detachPending : (engineStart s).detachPending = s.detachPending := rfl
@[simp] theorem engineStart_width : (engineStart s).width = s.width := rfl
@[simp] theorem engineStart_height : (engineStart s).height = s.height := rfl
@[simp] theorem engineStart_fbBase : (engineStart s).fbBase = s.fbBase := rfl
@[simp] theorem engineStart_sbBase : (engineStart s).sbBase = s.sbBase := rfl
@[simp] theorem engineStart_gate : (engineStart s).gate = s.gate := rfl
@[simp] theorem engineStart_mirror : (engineStart s).mirror = s.mirror := rfl
@[simp] theorem engineStart_handler : (engineStart s).handler = s.handler := rfl
@[simp] theorem engineStart_irqPending : (engineStart s).irqPending = s.irqPending := rfl
@[simp] theorem engineStart_irqSeqPc : (engineStart s).irqSeqPc = s.irqSeqPc := rfl
@[simp] theorem engineStart_engineActive : (engineStart s).engineActive = true := rfl
@[simp] theorem engineStart_mirrorCount : (engineStart s).mirrorCount = s.mirrorCount := rfl
@[simp] theorem engineStart_faultCount : (engineStart s).faultCount = s.faultCount := rfl
@[simp] theorem engineStart_fgs : (engineStart s).fgs = s.fgs := rfl
@[simp] theorem engineStart_fb : (engineStart s).fb = s.fb := rfl
@[simp] theorem engineStart_sb : (engineStart s).sb = s.sb := rfl
@[simp] theorem engineStart_chip : (engineStart s).chip = chipDisturb s.chip := rfl
@[simp] theorem engineStart_trace : (engineStart s).trace = s.trace := rfl
@[simp] theorem engineStart_events : (engineStart s).events = s.events ++ [.engineStart] := rfl
@[simp] theorem engineStart_returned : (engineStart s).returned = s.returned := rfl
@[simp] theorem engineStart_rdatValue : (engineStart s).rdatValue = s.rdatValue := rfl
@[simp] theorem engineStart_freeCtr : (engineStart s).freeCtr = s.freeCtr := rfl
end

/-! ### `sbWrite` -/

section
variable (s : State) (i : Nat) (b : Byte)
@[simp] theorem sbWrite_cfg : (sbWrite s i b).cfg = s.cfg := rfl
@[simp] theorem sbWrite_input : (sbWrite s i b).input = s.input := rfl
@[simp] theorem sbWrite_busPlan : (sbWrite s i b).busPlan = s.busPlan := rfl
@[simp] theorem sbWrite_hostStatus : (sbWrite s i b).hostStatus = s.hostStatus := rfl
@[simp] theorem sbWrite_ctl : (sbWrite s i b).ctl = s.ctl := rfl
@[simp] theorem sbWrite_dev : (sbWrite s i b).dev = s.dev := rfl
@[simp] theorem sbWrite_unusable : (sbWrite s i b).unusable = s.unusable := rfl
@[simp] theorem sbWrite_initDue : (sbWrite s i b).initDue = s.initDue := rfl
@[simp] theorem sbWrite_detachPending : (sbWrite s i b).detachPending = s.detachPending := rfl
@[simp] theorem sbWrite_width : (sbWrite s i b).width = s.width := rfl
@[simp] theorem sbWrite_height : (sbWrite s i b).height = s.height := rfl
@[simp] theorem sbWrite_fbBase : (sbWrite s i b).fbBase = s.fbBase := rfl
@[simp] theorem sbWrite_sbBase : (sbWrite s i b).sbBase = s.sbBase := rfl
@[simp] theorem sbWrite_gate : (sbWrite s i b).gate = s.gate := rfl
@[simp] theorem sbWrite_mirror : (sbWrite s i b).mirror = s.mirror := rfl
@[simp] theorem sbWrite_handler : (sbWrite s i b).handler = s.handler := rfl
@[simp] theorem sbWrite_irqPending : (sbWrite s i b).irqPending = s.irqPending := rfl
@[simp] theorem sbWrite_irqSeqPc : (sbWrite s i b).irqSeqPc = s.irqSeqPc := rfl
@[simp] theorem sbWrite_engineActive : (sbWrite s i b).engineActive = s.engineActive := rfl
@[simp] theorem sbWrite_mirrorCount : (sbWrite s i b).mirrorCount = s.mirrorCount := rfl
@[simp] theorem sbWrite_faultCount : (sbWrite s i b).faultCount = s.faultCount := rfl
@[simp] theorem sbWrite_fgs : (sbWrite s i b).fgs = s.fgs := rfl
@[simp] theorem sbWrite_fb : (sbWrite s i b).fb = s.fb := rfl
@[simp] theorem sbWrite_sb : (sbWrite s i b).sb = sparseWrite i b s.sb := rfl
@[simp] theorem sbWrite_chip : (sbWrite s i b).chip = s.chip := rfl
@[simp] theorem sbWrite_trace : (sbWrite s i b).trace = s.trace := rfl
@[simp] theorem sbWrite_events : (sbWrite s i b).events = s.events := rfl
@[simp] theorem sbWrite_returned : (sbWrite s i b).returned = s.returned := rfl
@[simp] theorem sbWrite_rdatValue : (sbWrite s i b).rdatValue = s.rdatValue := rfl
@[simp] theorem sbWrite_freeCtr : (sbWrite s i b).freeCtr = s.freeCtr := rfl
end

/-! ### `handlerEnter` -/

section
variable (s : State)
@[simp] theorem handlerEnter_cfg : (handlerEnter s).cfg = s.cfg := rfl
@[simp] theorem handlerEnter_input : (handlerEnter s).input = s.input := rfl
@[simp] theorem handlerEnter_busPlan : (handlerEnter s).busPlan = s.busPlan := rfl
@[simp] theorem handlerEnter_hostStatus : (handlerEnter s).hostStatus = s.hostStatus := rfl
@[simp] theorem handlerEnter_ctl : (handlerEnter s).ctl = s.ctl := rfl
@[simp] theorem handlerEnter_dev : (handlerEnter s).dev = s.dev := rfl
@[simp] theorem handlerEnter_unusable : (handlerEnter s).unusable = s.unusable := rfl
@[simp] theorem handlerEnter_initDue : (handlerEnter s).initDue = s.initDue := rfl
@[simp] theorem handlerEnter_detachPending : (handlerEnter s).detachPending = s.detachPending := rfl
@[simp] theorem handlerEnter_width : (handlerEnter s).width = s.width := rfl
@[simp] theorem handlerEnter_height : (handlerEnter s).height = s.height := rfl
@[simp] theorem handlerEnter_fbBase : (handlerEnter s).fbBase = s.fbBase := rfl
@[simp] theorem handlerEnter_sbBase : (handlerEnter s).sbBase = s.sbBase := rfl
@[simp] theorem handlerEnter_gate : (handlerEnter s).gate = s.gate := rfl
@[simp] theorem handlerEnter_mirror : (handlerEnter s).mirror = s.mirror := rfl
@[simp] theorem handlerEnter_handler : (handlerEnter s).handler = .ack s.hostStatus := rfl
@[simp] theorem handlerEnter_irqPending : (handlerEnter s).irqPending = false := rfl
@[simp] theorem handlerEnter_irqSeqPc : (handlerEnter s).irqSeqPc = s.irqSeqPc := rfl
@[simp] theorem handlerEnter_engineActive : (handlerEnter s).engineActive = s.engineActive := rfl
@[simp] theorem handlerEnter_mirrorCount : (handlerEnter s).mirrorCount = s.mirrorCount := rfl
@[simp] theorem handlerEnter_faultCount : (handlerEnter s).faultCount = s.faultCount := rfl
@[simp] theorem handlerEnter_fgs : (handlerEnter s).fgs = s.fgs := rfl
@[simp] theorem handlerEnter_fb : (handlerEnter s).fb = s.fb := rfl
@[simp] theorem handlerEnter_sb : (handlerEnter s).sb = s.sb := rfl
@[simp] theorem handlerEnter_chip : (handlerEnter s).chip = s.chip := rfl
@[simp] theorem handlerEnter_trace : (handlerEnter s).trace = s.trace := rfl
@[simp] theorem handlerEnter_events : (handlerEnter s).events = s.events ++ [.statusRead s.hostStatus] := rfl
@[simp] theorem handlerEnter_returned : (handlerEnter s).returned = s.returned := rfl
@[simp] theorem handlerEnter_rdatValue : (handlerEnter s).rdatValue = s.rdatValue := rfl
@[simp] theorem handlerEnter_freeCtr : (handlerEnter s).freeCtr = s.freeCtr := rfl
end

/-! ### `handlerAck` -/

section
variable (v : Word) (s : State)
@[simp] theorem handlerAck_cfg : (handlerAck v s).cfg = s.cfg := rfl
@[simp] theorem handlerAck_input : (handlerAck v s).input = s.input := rfl
@[simp] theorem handlerAck_busPlan : (handlerAck v s).busPlan = s.busPlan := rfl
@[simp] theorem handlerAck_hostStatus : (handlerAck v s).hostStatus = s.hostStatus &&& ~~~v := rfl
@[simp] theorem handlerAck_ctl : (handlerAck v s).ctl = s.ctl := rfl
@[simp] theorem handlerAck_dev : (handlerAck v s).dev = s.dev := rfl
@[simp] theorem handlerAck_unusable : (handlerAck v s).unusable = s.unusable := rfl
@[simp] theorem handlerAck_initDue : (handlerAck v s).initDue = s.initDue := rfl
@[simp] theorem handlerAck_detachPending : (handlerAck v s).detachPending = s.detachPending := rfl
@[simp] theorem handlerAck_width : (handlerAck v s).width = s.width := rfl
@[simp] theorem handlerAck_height : (handlerAck v s).height = s.height := rfl
@[simp] theorem handlerAck_fbBase : (handlerAck v s).fbBase = s.fbBase := rfl
@[simp] theorem handlerAck_sbBase : (handlerAck v s).sbBase = s.sbBase := rfl
@[simp] theorem handlerAck_gate : (handlerAck v s).gate = s.gate := rfl
@[simp] theorem handlerAck_mirror : (handlerAck v s).mirror = s.mirror := rfl
@[simp] theorem handlerAck_handler : (handlerAck v s).handler = .decide v := rfl
@[simp] theorem handlerAck_irqPending : (handlerAck v s).irqPending = s.irqPending := rfl
@[simp] theorem handlerAck_irqSeqPc : (handlerAck v s).irqSeqPc = s.irqSeqPc := rfl
@[simp] theorem handlerAck_engineActive : (handlerAck v s).engineActive = s.engineActive := rfl
@[simp] theorem handlerAck_mirrorCount : (handlerAck v s).mirrorCount = s.mirrorCount := rfl
@[simp] theorem handlerAck_faultCount : (handlerAck v s).faultCount = s.faultCount := rfl
@[simp] theorem handlerAck_fgs : (handlerAck v s).fgs = s.fgs := rfl
@[simp] theorem handlerAck_fb : (handlerAck v s).fb = s.fb := rfl
@[simp] theorem handlerAck_sb : (handlerAck v s).sb = s.sb := rfl
@[simp] theorem handlerAck_chip : (handlerAck v s).chip = s.chip := rfl
@[simp] theorem handlerAck_trace : (handlerAck v s).trace = s.trace := rfl
@[simp] theorem handlerAck_events : (handlerAck v s).events = s.events ++ [.statusAck v] := rfl
@[simp] theorem handlerAck_returned : (handlerAck v s).returned = s.returned := rfl
@[simp] theorem handlerAck_rdatValue : (handlerAck v s).rdatValue = s.rdatValue := rfl
@[simp] theorem handlerAck_freeCtr : (handlerAck v s).freeCtr = s.freeCtr := rfl
end

/-! ### `handOver` -/

section
variable (k : Nat) (res : Result) (s : State)
@[simp] theorem handOver_cfg : (handOver k res s).cfg = s.cfg := rfl
@[simp] theorem handOver_input : (handOver k res s).input = s.input := rfl
@[simp] theorem handOver_busPlan : (handOver k res s).busPlan = s.busPlan := rfl
@[simp] theorem handOver_hostStatus : (handOver k res s).hostStatus = s.hostStatus := rfl
@[simp] theorem handOver_ctl : (handOver k res s).ctl = s.ctl := rfl
@[simp] theorem handOver_dev : (handOver k res s).dev = s.dev := rfl
@[simp] theorem handOver_unusable : (handOver k res s).unusable = s.unusable := rfl
@[simp] theorem handOver_initDue : (handOver k res s).initDue = s.initDue := rfl
@[simp] theorem handOver_detachPending : (handOver k res s).detachPending = s.detachPending := rfl
@[simp] theorem handOver_width : (handOver k res s).width = s.width := rfl
@[simp] theorem handOver_height : (handOver k res s).height = s.height := rfl
@[simp] theorem handOver_fbBase : (handOver k res s).fbBase = s.fbBase := rfl
@[simp] theorem handOver_sbBase : (handOver k res s).sbBase = s.sbBase := rfl
@[simp] theorem handOver_gate : (handOver k res s).gate = s.gate := rfl
@[simp] theorem handOver_mirror : (handOver k res s).mirror = s.mirror := rfl
@[simp] theorem handOver_handler : (handOver k res s).handler = s.handler := rfl
@[simp] theorem handOver_irqPending : (handOver k res s).irqPending = s.irqPending := rfl
@[simp] theorem handOver_irqSeqPc : (handOver k res s).irqSeqPc = s.irqSeqPc := rfl
@[simp] theorem handOver_engineActive : (handOver k res s).engineActive = s.engineActive := rfl
@[simp] theorem handOver_mirrorCount : (handOver k res s).mirrorCount = s.mirrorCount := rfl
@[simp] theorem handOver_faultCount : (handOver k res s).faultCount = s.faultCount := rfl
@[simp] theorem handOver_fgs : (handOver k res s).fgs = s.fgs.modify k fun f => { f with slot := .empty } := rfl
@[simp] theorem handOver_fb : (handOver k res s).fb = s.fb := rfl
@[simp] theorem handOver_sb : (handOver k res s).sb = s.sb := rfl
@[simp] theorem handOver_chip : (handOver k res s).chip = s.chip := rfl
@[simp] theorem handOver_trace : (handOver k res s).trace = s.trace := rfl
@[simp] theorem handOver_events : (handOver k res s).events = s.events ++ [.completion k res] := rfl
@[simp] theorem handOver_returned : (handOver k res s).returned = s.returned ++ [(k, res)] := rfl
@[simp] theorem handOver_rdatValue : (handOver k res s).rdatValue = s.rdatValue := rfl
@[simp] theorem handOver_freeCtr : (handOver k res s).freeCtr = s.freeCtr := rfl
end

/-! ### `tickAll` -/

section
variable (s : State)
@[simp] theorem tickAll_cfg : (tickAll s).cfg = s.cfg := rfl
@[simp] theorem tickAll_input : (tickAll s).input = s.input := rfl
@[simp] theorem tickAll_busPlan : (tickAll s).busPlan = s.busPlan := rfl
@[simp] theorem tickAll_hostStatus : (tickAll s).hostStatus = s.hostStatus := rfl
@[simp] theorem tickAll_ctl : (tickAll s).ctl = s.ctl := rfl
@[simp] theorem tickAll_dev : (tickAll s).dev = s.dev := rfl
@[simp] theorem tickAll_unusable : (tickAll s).unusable = s.unusable := rfl
@[simp] theorem tickAll_initDue : (tickAll s).initDue = s.initDue := rfl
@[simp] theorem tickAll_detachPending : (tickAll s).detachPending = s.detachPending := rfl
@[simp] theorem tickAll_width : (tickAll s).width = s.width := rfl
@[simp] theorem tickAll_height : (tickAll s).height = s.height := rfl
@[simp] theorem tickAll_fbBase : (tickAll s).fbBase = s.fbBase := rfl
@[simp] theorem tickAll_sbBase : (tickAll s).sbBase = s.sbBase := rfl
@[simp] theorem tickAll_gate : (tickAll s).gate = s.gate := rfl
@[simp] theorem tickAll_mirror : (tickAll s).mirror = s.mirror := rfl
@[simp] theorem tickAll_handler : (tickAll s).handler = s.handler := rfl
@[simp] theorem tickAll_irqPending : (tickAll s).irqPending = s.irqPending := rfl
@[simp] theorem tickAll_irqSeqPc : (tickAll s).irqSeqPc = s.irqSeqPc := rfl
@[simp] theorem tickAll_engineActive : (tickAll s).engineActive = s.engineActive := rfl
@[simp] theorem tickAll_mirrorCount : (tickAll s).mirrorCount = s.mirrorCount := rfl
@[simp] theorem tickAll_faultCount : (tickAll s).faultCount = s.faultCount := rfl
@[simp] theorem tickAll_fgs : (tickAll s).fgs = s.fgs.map fun f => { f with slot := tickSlot f.slot } := rfl
@[simp] theorem tickAll_fb : (tickAll s).fb = s.fb := rfl
@[simp] theorem tickAll_sb : (tickAll s).sb = s.sb := rfl
@[simp] theorem tickAll_chip : (tickAll s).chip = s.chip := rfl
@[simp] theorem tickAll_trace : (tickAll s).trace = s.trace := rfl
@[simp] theorem tickAll_events : (tickAll s).events = s.events := rfl
@[simp] theorem tickAll_returned : (tickAll s).returned = s.returned := rfl
@[simp] theorem tickAll_rdatValue : (tickAll s).rdatValue = s.rdatValue := rfl
@[simp] theorem tickAll_freeCtr : (tickAll s).freeCtr = s.freeCtr := rfl
end

end Sys2Proof.Machine
end

