-- ==== Sys2Proof/Laws/Operations.lean ====
section
/-! SUPPORT. For each shared operation, once, everything it can do: a bus transaction, a micro-step, a list of
micro-steps (delivered, faulting, or either), taking a BusFault, releasing the gate, and the slot updates. -/

namespace Sys2Proof.Machine

/-! ### Slots -/

@[simp] theorem slotOf_setSlot_self (k : Nat) (v : Slot) (s : State) :
    slotOf (setSlot k v s) k = (slotOf s k).map fun _ => v := by
  simp [slotOf, Function.comp_def]

theorem slotOf_setSlot_of_ne {k j : Nat} (h : k ≠ j) (v : Slot) (s : State) :
    slotOf (setSlot k v s) j = slotOf s j := by
  simp [slotOf, h]

/-- What a slot update makes of every slot. -/
theorem slotOf_setSlot (k j : Nat) (v : Slot) (s : State) :
    slotOf (setSlot k v s) j = if k = j then (slotOf s j).map fun _ => v else slotOf s j := by
  split
  · subst_vars; exact slotOf_setSlot_self ..
  · exact slotOf_setSlot_of_ne ‹_› v s

@[simp] theorem slotOf_setSeqPc (k n j : Nat) (s : State) : slotOf (setSeqPc k n s) j = slotOf s j := by
  by_cases h : k = j <;> simp [slotOf, h, Function.comp_def]

@[simp] theorem slotOf_failWaiting (s : State) (j : Nat) : slotOf (failWaiting s) j = (slotOf s j).map failSlot := by
  simp [slotOf, Function.comp_def]

@[simp] theorem slotOf_bumpSeq (s : State) (j : Nat) : slotOf (bumpSeq s) j = slotOf s j := by
  unfold bumpSeq
  cases hg : s.gate with
  | free => rfl
  | heldIRQ => rfl
  | heldFG k => by_cases h : k = j <;> simp [slotOf, h, Function.comp_def]

/-- `slotOf` reads only the foreground agents. -/
theorem slotOf_congr {s t : State} (h : t.fgs = s.fgs) (k : Nat) : slotOf t k = slotOf s k := by
  simp [slotOf, h]

theorem seqPcOf_congr {s t : State} (h : t.fgs = s.fgs) (k : Nat) : seqPcOf t k = seqPcOf s k := by
  simp [seqPcOf, h]

theorem slotOf_eq_some {s : State} {k : Nat} {v : Slot} (h : slotOf s k = some v) :
    s.fgs[k]? = some ⟨v, seqPcOf s k⟩ := by
  simp only [slotOf, Option.map_eq_some_iff] at h
  obtain ⟨f, hf, rfl⟩ := h
  simp [hf, seqPcOf]

theorem slotOf_of_getElem? {s : State} {k n : Nat} {v : Slot} (h : s.fgs[k]? = some ⟨v, n⟩) : slotOf s k = some v := by
  simp [slotOf, h]

theorem seqPcOf_of_getElem? {s : State} {k n : Nat} {v : Slot} (h : s.fgs[k]? = some ⟨v, n⟩) : seqPcOf s k = n := by
  simp [seqPcOf, h]

theorem failSlot_eq_deviceLost (fgs : List Fg) :
    (fgs.map fun f => { f with slot := failSlot f.slot }) = deviceLost fgs := by
  unfold deviceLost
  refine List.map_congr_left fun f _ => ?_
  obtain ⟨slot, n⟩ := f
  cases slot <;> rfl

/-! ### What a micro-step leaves alone -/

/-- What micro-steps never touch: everything but the bus's answers, the guarded registers, the reference chip, the
trace, the StagingBuffer, the engine, the event trace and the sequencer positions. -/
structure Untouched (s t : State) : Prop where
  cfg : t.cfg = s.cfg
  input : t.input = s.input
  hostStatus : t.hostStatus = s.hostStatus
  dev : t.dev = s.dev
  unusable : t.unusable = s.unusable
  initDue : t.initDue = s.initDue
  detachPending : t.detachPending = s.detachPending
  width : t.width = s.width
  height : t.height = s.height
  fbBase : t.fbBase = s.fbBase
  sbBase : t.sbBase = s.sbBase
  gate : t.gate = s.gate
  mirror : t.mirror = s.mirror
  handler : t.handler = s.handler
  irqPending : t.irqPending = s.irqPending
  mirrorCount : t.mirrorCount = s.mirrorCount
  faultCount : t.faultCount = s.faultCount
  fb : t.fb = s.fb
  returned : t.returned = s.returned
  rdatValue : t.rdatValue = s.rdatValue
  freeCtr : t.freeCtr = s.freeCtr
  slots : ∀ k, slotOf t k = slotOf s k

theorem Untouched.refl (s : State) : Untouched s s := by constructor <;> intros <;> rfl

theorem Untouched.trans {s t u : State} (h : Untouched s t) (k : Untouched t u) : Untouched s u := by
  constructor
  case slots => intro j; rw [k.slots, h.slots]
  all_goals first
    | exact k.cfg.trans h.cfg | exact k.input.trans h.input | exact k.hostStatus.trans h.hostStatus
    | exact k.dev.trans h.dev | exact k.unusable.trans h.unusable | exact k.initDue.trans h.initDue
    | exact k.detachPending.trans h.detachPending | exact k.width.trans h.width | exact k.height.trans h.height
    | exact k.fbBase.trans h.fbBase | exact k.sbBase.trans h.sbBase | exact k.gate.trans h.gate
    | exact k.mirror.trans h.mirror | exact k.handler.trans h.handler | exact k.irqPending.trans h.irqPending
    | exact k.mirrorCount.trans h.mirrorCount | exact k.faultCount.trans h.faultCount | exact k.fb.trans h.fb
    | exact k.returned.trans h.returned | exact k.rdatValue.trans h.rdatValue | exact k.freeCtr.trans h.freeCtr

theorem untouched_deliver (w : BusWord) (s : State) : Untouched s (deliver w s) := by constructor <;> intros <;> rfl

theorem untouched_busPlan (p : Option Nat) (s : State) : Untouched s { s with busPlan := p } := by
  constructor <;> intros <;> rfl

theorem untouched_applyMark (m : Mark) (s : State) : Untouched s (applyMark m s) := by constructor <;> intros <;> rfl

theorem untouched_sbWrite (s : State) (i : Nat) (b : Byte) : Untouched s (sbWrite s i b) := by
  constructor <;> intros <;> rfl

theorem untouched_engineStart (s : State) : Untouched s (engineStart s) := by constructor <;> intros <;> rfl

theorem untouched_bumpSeq (s : State) : Untouched s (bumpSeq s) := by
  constructor
  case slots => intro k; exact slotOf_bumpSeq s k
  all_goals (unfold bumpSeq; cases hg : s.gate <;> simp [hg])

/-! ### One bus transaction -/

/-- A transaction is delivered, or it is answered with `Fault` and the BusFault is taken. -/
theorem busTransaction_cases (w : BusWord) (s : State) :
    (∃ p, busTransaction w s = .ok (deliver w { s with busPlan := p }))
      ∨ busTransaction w s = .error (takeBusFault { s with busPlan := none }) := by
  unfold busTransaction
  match s.busPlan with
  | none => exact .inl ⟨s.busPlan, by rfl⟩
  | some 0 => exact .inr rfl
  | some (n + 1) => exact .inl ⟨some n, rfl⟩

/-- A transaction the bus delivers. -/
theorem busTransaction_of_delivers (w : BusWord) (s : State) (h : busDelivers s 1) :
    busTransaction w s = .ok (deliver w { s with busPlan := busPlanAfter s 1 }) := by
  unfold busTransaction busPlanAfter
  match hp : s.busPlan with
  | none => simp only [Option.map_none]; rw [← hp]
  | some 0 => exact absurd (h 0 hp) (by omega)
  | some (n + 1) => simp

/-- A transaction the bus answers with `Fault`. -/
theorem busTransaction_of_fault (w : BusWord) (s : State) (h : s.busPlan = some 0) :
    busTransaction w s = .error (takeBusFault { s with busPlan := none }) := by
  unfold busTransaction; rw [h]

/-- What a run of micro-steps from `s` can end as: at its end, or with the BusFault taken, either from a state that is
`s` in all that micro-steps leave alone. -/
def Ran (s : State) (x : Run) : Prop :=
  (∃ t, x = .ok t ∧ Untouched s t) ∨ ∃ t, x = .error (takeBusFault t) ∧ Untouched s t

theorem busTransaction_ran (w : BusWord) (s : State) : Ran s (busTransaction w s) := by
  rcases busTransaction_cases w s with ⟨p, h⟩ | h
  · exact .inl ⟨_, h, (untouched_busPlan p s).trans (untouched_deliver w _)⟩
  · exact .inr ⟨_, h, untouched_busPlan none s⟩

/-! ### One micro-step -/

/-- A micro-step completes and leaves alone what micro-steps leave alone, or the BusFault is taken in such a state. -/
theorem microStep_cases (m : Micro) (s : State) : Ran s (microStep m s) := by
  cases m with
  | bus w before after =>
    rcases busTransaction_cases w (applyMark before s) with ⟨p, h⟩ | h
    · refine .inl ⟨_, by simp only [microStep, h]; rfl, ?_⟩
      exact (untouched_applyMark before s).trans
        ((untouched_busPlan p _).trans ((untouched_deliver w _).trans (untouched_applyMark after _)))
    · exact .inr ⟨_, by simp only [microStep, h], (untouched_applyMark before s).trans (untouched_busPlan none _)⟩
  | copyByte i => exact .inl ⟨_, rfl, untouched_sbWrite s i _⟩
  | engineStart => exact .inl ⟨_, rfl, untouched_engineStart s⟩

/-- A completed micro-step leaves the foreground agents and the sequencer positions as they were (R26). -/
theorem microStep_positions {m : Micro} {s t : State} (h : microStep m s = .ok t) :
    t.fgs = s.fgs ∧ t.irqSeqPc = s.irqSeqPc := by
  cases m with
  | bus w before after =>
    rcases busTransaction_cases w (applyMark before s) with ⟨p, hb⟩ | hb
    · simp only [microStep, hb, Except.ok.injEq] at h
      exact h ▸ ⟨rfl, rfl⟩
    · simp only [microStep, hb] at h
      cases h
  | copyByte i => exact (Except.ok.inj h) ▸ ⟨rfl, rfl⟩
  | engineStart => exact (Except.ok.inj h) ▸ ⟨rfl, rfl⟩

/-! ### Lists of micro-steps -/

/-- A list run to its end leaves alone what micro-steps leave alone; a BusFault ends it in a state in which that is
still so. -/
theorem runMicros_cases (count : State → State) (hc : ∀ s, Untouched s (count s)) (ms : List Micro) (s : State) :
    Ran s (runMicros count ms s) := by
  induction ms generalizing s with
  | nil => exact .inl ⟨s, rfl, .refl s⟩
  | cons m ms ih =>
    rcases microStep_cases m s with ⟨t, h, ht⟩ | ⟨t, h, ht⟩
    · have hst := ht.trans (hc t)
      rcases ih (count t) with ⟨u, hu, hut⟩ | ⟨u, hu, hut⟩
      · exact .inl ⟨u, by simp only [runMicros, h, hu], hst.trans hut⟩
      · exact .inr ⟨u, by simp only [runMicros, h, hu], hst.trans hut⟩
    · exact .inr ⟨t, by simp only [runMicros, h], ht⟩

theorem runOperation_cases (ms : List Micro) (s : State) : Ran s (runOperation ms s) :=
  runMicros_cases bumpSeq untouched_bumpSeq ms s

theorem runBare_cases (ms : List Micro) (s : State) : Ran s (runBare ms s) :=
  runMicros_cases id Untouched.refl ms s

/-- Two lists one after the other. -/
theorem runMicros_append (count : State → State) (ms ns : List Micro) (s : State) :
    runMicros count (ms ++ ns) s =
      match runMicros count ms s with
      | .ok t => runMicros count ns t
      | .error t => .error t := by
  induction ms generalizing s with
  | nil => rfl
  | cons m ms ih =>
    simp only [List.cons_append, runMicros]
    cases microStep m s with
    | ok t => exact ih _
    | error t => rfl

/-- Every micro-step of the list is a bus transaction. -/
def BusOnly (ms : List Micro) : Prop := ∀ m ∈ ms, ∃ w before after, m = .bus w before after

theorem BusOnly.append {ms ns : List Micro} (h : BusOnly ms) (k : BusOnly ns) : BusOnly (ms ++ ns) := by
  intro m hm
  rcases List.mem_append.1 hm with h' | h'
  exacts [h m h', k m h']

/-- The registers and flags after a list of delivered micro-steps. -/
def stepsCtl (p : Params) (ms : List Micro) (c : Ctl) : Ctl := ms.foldl (microCtl p) c

/-- A micro-step that completes leaves the registers and flags it is to leave (R26). -/
theorem microStep_ctl {m : Micro} {s t : State} (h : microStep m s = .ok t) : t.ctl = microCtl s.cfg s.ctl m := by
  cases m with
  | bus w before after =>
    rcases busTransaction_cases w (applyMark before s) with ⟨p, hb⟩ | hb
    · simp only [microStep, hb, Except.ok.injEq] at h
      exact h ▸ rfl
    · simp only [microStep, hb] at h
      cases h
  | copyByte i => exact (Except.ok.inj h) ▸ rfl
  | engineStart => exact (Except.ok.inj h) ▸ rfl

/-- A list that runs to its end leaves the registers and flags its micro-steps leave one after the other. -/
theorem runMicros_ctl (count : State → State) (hc : ∀ s, Untouched s (count s)) (hk : ∀ s, (count s).ctl = s.ctl)
    (ms : List Micro) (s : State) :
    (∃ t, runMicros count ms s = .ok t ∧ Untouched s t ∧ t.ctl = stepsCtl s.cfg ms s.ctl)
      ∨ ∃ t, runMicros count ms s = .error (takeBusFault t) ∧ Untouched s t := by
  induction ms generalizing s with
  | nil => exact .inl ⟨s, rfl, .refl s, rfl⟩
  | cons m ms ih =>
    rcases microStep_cases m s with ⟨t, h, ht⟩ | ⟨t, h, ht⟩
    · have hst := ht.trans (hc t)
      rcases ih (count t) with ⟨u, hu, hut, hctl⟩ | ⟨u, hu, hut⟩
      · refine .inl ⟨u, by simp only [runMicros, h, hu], hst.trans hut, ?_⟩
        rw [hctl, hst.cfg, hk, microStep_ctl h]
        rfl
      · exact .inr ⟨u, by simp only [runMicros, h, hu], hst.trans hut⟩
    · exact .inr ⟨t, by simp only [runMicros, h], ht⟩

theorem bumpSeq_ctl (s : State) : (bumpSeq s).ctl = s.ctl := by unfold bumpSeq; cases s.gate <;> rfl

theorem stepsCtl_append (p : Params) (ms ns : List Micro) (c : Ctl) :
    stepsCtl p (ms ++ ns) c = stepsCtl p ns (stepsCtl p ms c) := List.foldl_append

theorem chipRun_append (p : Params) (e : Bool) (ws vs : List BusWord) (c : Chip) :
    chipRun p e (ws ++ vs) c = chipRun p e vs (chipRun p e ws c) := List.foldl_append

theorem busWords_append (ms ns : List Micro) : busWords (ms ++ ns) = busWords ms ++ busWords ns := List.filterMap_append

theorem busWords_length {ms : List Micro} (h : BusOnly ms) : (busWords ms).length = ms.length := by
  induction ms with
  | nil => rfl
  | cons m ms ih =>
    obtain ⟨w, b, a, rfl⟩ := h m (by simp)
    simpa [busWords] using ih fun m hm => h m (by simp [hm])

/-- What a counter of micro-steps does commutes with what a delivered transaction does. -/
structure CountOnly (count : State → State) : Prop where
  commutes : ∀ (s : State) (p : Option Nat) (t : List BusWord) (c : Ctl) (x : Chip),
    count { s with busPlan := p, trace := t, ctl := c, chip := x } =
      { count s with busPlan := p, trace := t, ctl := c, chip := x }
  cfg : ∀ s, (count s).cfg = s.cfg
  busPlan : ∀ s, (count s).busPlan = s.busPlan
  trace : ∀ s, (count s).trace = s.trace
  ctl : ∀ s, (count s).ctl = s.ctl
  chip : ∀ s, (count s).chip = s.chip
  engineActive : ∀ s, (count s).engineActive = s.engineActive

theorem countOnly_id : CountOnly id := by constructor <;> intros <;> rfl

theorem countOnly_bumpSeq : CountOnly bumpSeq := by
  constructor <;> intro s <;> intros <;> (unfold bumpSeq; cases hg : s.gate <;> simp [hg])

theorem CountOnly.iterate {count : State → State} (h : CountOnly count) (n : Nat) : CountOnly count^[n] := by
  induction n with
  | zero => exact countOnly_id
  | succ n ih =>
    exact {
      commutes := fun s p t c x => (congrArg count^[n] (h.commutes s p t c x)).trans (ih.commutes (count s) p t c x)
      cfg := fun s => (ih.cfg (count s)).trans (h.cfg s)
      busPlan := fun s => (ih.busPlan (count s)).trans (h.busPlan s)
      trace := fun s => (ih.trace (count s)).trans (h.trace s)
      ctl := fun s => (ih.ctl (count s)).trans (h.ctl s)
      chip := fun s => (ih.chip (count s)).trans (h.chip s)
      engineActive := fun s => (ih.engineActive (count s)).trans (h.engineActive s) }

theorem busPlanAfter_zero (s : State) : busPlanAfter s 0 = s.busPlan := by
  unfold busPlanAfter; cases s.busPlan <;> rfl

/-- A count after a delivered micro-step is a delivered micro-step after the count. -/
theorem CountOnly.deliver {count : State → State} (hc : CountOnly count) (before after : Mark) (w : BusWord)
    (p : Option Nat) (s : State) :
    count (applyMark after (deliver w { applyMark before s with busPlan := p })) = { count s with
      busPlan := p
      trace := s.trace ++ [w]
      ctl := microCtl s.cfg s.ctl (.bus w before after)
      chip := chipAfter s.cfg s.engineActive w s.chip } :=
  hc.commutes s p _ _ _

/-- A list of bus transactions the bus delivers, in closed form. -/
theorem runMicros_delivered {count : State → State} (hc : CountOnly count) {ms : List Micro} (hb : BusOnly ms)
    (s : State) (hd : busDelivers s ms.length) :
    runMicros count ms s = .ok { count^[ms.length] s with
      busPlan := busPlanAfter s ms.length
      trace := s.trace ++ busWords ms
      ctl := stepsCtl s.cfg ms s.ctl
      chip := chipRun s.cfg s.engineActive (busWords ms) s.chip } := by
  induction ms generalizing s with
  | nil => simp [runMicros, busPlanAfter_zero, busWords, stepsCtl, chipRun]
  | cons m ms ih =>
    obtain ⟨w, before, after, rfl⟩ := hb m (by simp)
    have h1 : busDelivers (applyMark before s) 1 := fun n hn => by
      have := hd n hn; simp only [List.length_cons] at this; omega
    simp only [runMicros, microStep, busTransaction_of_delivers w _ h1]
    rw [hc.deliver, ih (fun m hm => hb m (by simp [hm]))]
    · rw [(hc.iterate _).commutes]
      simp only [hc.cfg, hc.engineActive, List.length_cons, Function.iterate_succ, Function.comp]
      congr 2
      · cases hp : s.busPlan <;> simp [busPlanAfter, hp, Nat.sub_sub, Nat.add_comm]
      · simp [busWords]
    · intro n hn
      simp only [applyMark_busPlan, busPlanAfter, Option.map_eq_some_iff] at hn
      obtain ⟨k, hk, rfl⟩ := hn
      have := hd k hk
      simp only [List.length_cons] at this
      omega

/-- A list of bus transactions of which number `n` is answered with `Fault`, in closed form. -/
theorem runMicros_faulted {count : State → State} (hc : CountOnly count) {ms : List Micro} (hb : BusOnly ms)
    (s : State) {n : Nat} (hp : s.busPlan = some n) (hn : n < ms.length) :
    ∃ c, runMicros count ms s = .error (takeBusFault { count^[n] s with
      busPlan := none
      trace := s.trace ++ (busWords ms).take n
      ctl := c
      chip := chipRun s.cfg s.engineActive ((busWords ms).take n) s.chip })
      ∧ ∃ w before after, ms[n]? = some (.bus w before after) ∧ c = markCtl before (stepsCtl s.cfg (ms.take n) s.ctl) := by
  induction ms generalizing s n with
  | nil => simp at hn
  | cons m ms ih =>
    obtain ⟨w, before, after, rfl⟩ := hb m (by simp)
    cases n with
    | zero =>
      refine ⟨markCtl before s.ctl, ?_, w, before, after, rfl, rfl⟩
      simp only [runMicros, microStep, busTransaction_of_fault w (applyMark before s) hp]
      simp [applyMark, chipRun]
    | succ n =>
      have h1 : busDelivers (applyMark before s) 1 := fun j hj => by
        rw [applyMark_busPlan, hp] at hj; cases hj; omega
      simp only [runMicros, microStep, busTransaction_of_delivers w _ h1]
      rw [hc.deliver]
      obtain ⟨c, hrun, w', before', after', hget, hc'⟩ := ih (fun m hm => hb m (by simp [hm]))
        { count s with
          busPlan := busPlanAfter (applyMark before s) 1
          trace := s.trace ++ [w]
          ctl := microCtl s.cfg s.ctl (.bus w before after)
          chip := chipAfter s.cfg s.engineActive w s.chip }
        (n := n) (by simp [busPlanAfter, hp]) (by simpa using hn)
      refine ⟨c, ?_, w', before', after', by simpa using hget, ?_⟩
      · rw [hrun, (hc.iterate _).commutes]
        simp [busWords, chipRun, hc.cfg, hc.engineActive]
      · rw [hc']
        simp [hc.cfg, stepsCtl]

/-- An operation of `n` bus transactions below the holder's own, all delivered, in closed form. -/
theorem runBare_delivered {ms : List Micro} (hb : BusOnly ms) (s : State) (hd : busDelivers s ms.length) :
    (runBare ms s).final = { s with
      busPlan := busPlanAfter s ms.length
      trace := s.trace ++ busWords ms
      ctl := stepsCtl s.cfg ms s.ctl
      chip := chipRun s.cfg s.engineActive (busWords ms) s.chip } := by
  rw [runBare, runMicros_delivered countOnly_id hb s hd]
  simp [Run.final]

/-- The copy of bytes, in closed form: the bytes of the FrameBuffer are written, nothing else moves but `seq_pc`. -/
theorem runMicros_copy (is : List Nat) (s : State) (hg : s.gate = .heldIRQ) :
    runMicros bumpSeq (is.map .copyByte) s = .ok { s with
      sb := is.foldl (fun m i => sparseWrite i (fbRead s i) m) s.sb
      irqSeqPc := s.irqSeqPc + is.length } := by
  induction is generalizing s with
  | nil => rfl
  | cons i is ih =>
    have hb : bumpSeq (sbWrite s i (fbRead s i)) =
        { s with sb := sparseWrite i (fbRead s i) s.sb, irqSeqPc := s.irqSeqPc + 1 } := by
      simp [bumpSeq, hg, sbWrite]
    simp only [List.map_cons, runMicros, microStep, hb]
    rw [ih _ (by exact hg)]
    simp only [List.foldl_cons, List.length_cons, Nat.add_assoc, Nat.add_comm 1]
    rfl

/-- The holder's count of `n` micro-steps, a foreground agent's. -/
theorem bumpSeq_iterate_fg (n k : Nat) (s : State) (hg : s.gate = .heldFG k) :
    bumpSeq^[n] s = { s with fgs := s.fgs.modify k fun f => { f with seqPc := f.seqPc + n } } := by
  induction n generalizing s with
  | zero =>
    simp only [Function.iterate_zero, id, Nat.add_zero]
    have : (fun f : Fg => { f with seqPc := f.seqPc }) = id := rfl
    simp [this, List.modify_id]
  | succ n ih =>
    rw [Function.iterate_succ, Function.comp, ih]
    · simp [bumpSeq, hg, List.modify_modify_eq, Function.comp_def, Nat.add_assoc, Nat.add_comm 1]
    · simp [bumpSeq, hg]

/-- The holder's count of `n` micro-steps, `IRQA`'s. -/
theorem bumpSeq_iterate_irq (n : Nat) (s : State) (hg : s.gate = .heldIRQ) :
    bumpSeq^[n] s = { s with irqSeqPc := s.irqSeqPc + n } := by
  induction n generalizing s with
  | zero => rfl
  | succ n ih =>
    rw [Function.iterate_succ, Function.comp, ih]
    · simp [bumpSeq, hg, Nat.add_assoc, Nat.add_comm 1]
    · simp [bumpSeq, hg]

/-! ### Taking a BusFault and releasing the gate -/

theorem takeBusFault_fg {s : State} {k : Nat} (hg : s.gate = .heldFG k) :
    takeBusFault s = endRequest k .busFault (failWaiting { s with unusable := true, ctl := faultCtl s.ctl, chip := unknownChip }) := by
  simp [takeBusFault, hg]

theorem takeBusFault_irq {s : State} (hg : s.gate = .heldIRQ) :
    takeBusFault s = handlerReturn { failWaiting { s with unusable := true, ctl := faultCtl s.ctl, chip := unknownChip } with
      gate := .free, faultCount := countUp s.faultCount } := by
  simp [takeBusFault, hg]

theorem takeBusFault_free {s : State} (hg : s.gate = .free) :
    takeBusFault s = failWaiting { s with unusable := true, ctl := faultCtl s.ctl, chip := unknownChip } := by
  simp [takeBusFault, hg]

/-- Whoever holds the gate, a BusFault frees it, makes the device unusable and clears the tracking flags. -/
theorem takeBusFault_always (s : State) :
    (takeBusFault s).gate = .free ∧ (takeBusFault s).unusable = true ∧ (takeBusFault s).ctl = faultCtl s.ctl
      ∧ (takeBusFault s).dev = s.dev ∧ (takeBusFault s).trace = s.trace ∧ (takeBusFault s).fb = s.fb
      ∧ (takeBusFault s).sb = s.sb ∧ (takeBusFault s).chip = unknownChip ∧ (takeBusFault s).cfg = s.cfg
      ∧ (takeBusFault s).width = s.width ∧ (takeBusFault s).height = s.height
      ∧ (takeBusFault s).fbBase = s.fbBase ∧ (takeBusFault s).sbBase = s.sbBase
      ∧ (takeBusFault s).initDue = s.initDue ∧ (takeBusFault s).mirrorCount = s.mirrorCount := by
  cases hg : s.gate with
  | free => simp [takeBusFault_free hg, hg]
  | heldFG k => simp [takeBusFault_fg hg]
  | heldIRQ => simp [takeBusFault_irq hg]

/-- The initialisation ends with the table replayed and the chip's window and pointer not known, or with the BusFault
taken (R196, R197). -/
theorem replayInit_cases (s : State) :
    (∃ t, replayInit s = { t with chip := chipAfterInit t.chip } ∧ Untouched { s with initDue := false } t
        ∧ t.ctl = stepsCtl s.cfg (initseqSteps s.cfg) s.ctl)
      ∨ ∃ t, replayInit s = takeBusFault t ∧ Untouched { s with initDue := false } t := by
  rcases runMicros_ctl id Untouched.refl (fun _ => rfl) (initseqSteps s.cfg) { s with initDue := false } with
    ⟨t, h, hu, hc⟩ | ⟨t, h, hu⟩
  · exact .inl ⟨t, by simp only [replayInit, runBare, h, Run.final], hu, hc⟩
  · have hc : chipAfterInit (takeBusFault t).chip = (takeBusFault t).chip := by
      rw [(takeBusFault_always t).2.2.2.2.2.2.2.1]; rfl
    exact .inr ⟨t, by simp only [replayInit, runBare, h, Run.final, hc], hu⟩

/-- What a BusFault makes of every slot: the holder's request and every waiting one end with BusFault (R213, R214). -/
theorem slotOf_takeBusFault (s : State) (j : Nat) :
    slotOf (takeBusFault s) j =
      if s.gate = .heldFG j then (slotOf s j).map fun _ => .done .busFault else (slotOf s j).map failSlot := by
  cases hg : s.gate with
  | free => rw [takeBusFault_free hg, slotOf_failWaiting]; rfl
  | heldIRQ => rw [takeBusFault_irq hg]; exact slotOf_failWaiting _ _
  | heldFG k =>
    rw [takeBusFault_fg hg, endRequest, slotOf_setSlot]
    have hf : slotOf { failWaiting { s with unusable := true, ctl := faultCtl s.ctl, chip := unknownChip } with gate := .free } j =
        (slotOf s j).map failSlot := slotOf_failWaiting _ _
    by_cases h : k = j
    · subst h; simp only [hf, if_true, Option.map_map]; rfl
    · rw [if_neg h, hf, if_neg (by simp [h])]

theorem failSlot_eq_running {v : Slot} {r : Request} : failSlot v = .running r ↔ v = .running r := by
  cases v <;> simp [failSlot]

theorem failSlot_ne_waiting {v : Slot} {r : Request} {t : Nat} : failSlot v ≠ .waiting r t := by
  cases v <;> simp [failSlot]

/-- Only a holder has micro-steps left. -/
theorem gate_ne_free_of_rest {s : State} {ms : List Micro} (h : holderRest s = some ms) : s.gate ≠ .free := by
  intro hg
  simp [holderRest, hg] at h

theorem release_fg {s : State} {k : Nat} (hg : s.gate = .heldFG k) : release s = endRequest k .ok s := by
  simp [release, hg]

theorem release_irq {s : State} (hg : s.gate = .heldIRQ) :
    release s = handlerReturn { s with gate := .free, mirrorCount := countUp s.mirrorCount } := by
  simp [release, hg]

/-- Operations of the holder: outside an acquisition they stop, inside one they have their effect. -/
theorem byHolder_held {s : State} (f : State → State) (hd : s.dev = .attached) (hg : s.gate ≠ .free) :
    byHolder f s = .next (f s) := by
  unfold byHolder
  cases h : s.gate <;> simp_all

/-- Where an operation of the holder answers a next state, the device is attached and the gate held. -/
theorem byHolder_next {s t : State} {f : State → State} (h : byHolder f s = .next t) :
    s.dev = .attached ∧ s.gate ≠ .free ∧ t = f s := by
  unfold byHolder at h
  split at h
  · cases h
  · rename_i hd
    have : s.dev = .attached := by cases hs : s.dev <;> simp_all
    cases hg : s.gate <;> simp_all

end Sys2Proof.Machine
end

