-- ==== Sys2Proof/Laws/Sequences.lean ====
section
/-! SUPPORT. The micro-step list of each operation against the transactions the rules of the spec write out, its
length, and the registers and flags it leaves when it is delivered whole. -/

namespace Sys2Proof.Machine

/-! ### Coordinates and parameters -/

theorem lo_eq (c : Half) : lo c = BitVec.ofNat 16 (c.toNat % 256) := by
  apply BitVec.eq_of_toNat_eq; simp [lo, loByte]

theorem hi_eq (c : Half) : hi c = BitVec.ofNat 16 (c.toNat / 256) := by
  apply BitVec.eq_of_toNat_eq; simp [hi, hiByte, Nat.shiftRight_eq_div_pow]; omega

@[simp] theorem datWord_lo (c : Half) : datWord (lo c) = lowPart c := by rw [lo_eq, lowPart]

@[simp] theorem datWord_hi (c : Half) : datWord (hi c) = highPart c := by rw [hi_eq, highPart]

theorem hi_eq_highPart (c : Half) : hi c = (highPart c).value := hi_eq c

/-- What the constraints on the parameters say: the window registers are the addresses `0x30`..`0x37` in some order. -/
theorem paramsWf_perm {p : Params} (h : paramsWf p = true) : (windowRegs p).Perm windowAddresses := by
  simp only [paramsWf, Bool.and_eq_true] at h
  exact List.isPerm_iff.1 h.1

theorem paramsWf_nodup {p : Params} (h : paramsWf p = true) : (windowRegs p).Nodup :=
  (paramsWf_perm h).nodup_iff.2 (by decide)

theorem paramsWf_window_ne_mrw {p : Params} (h : paramsWf p = true) {a : Half} (ha : a ∈ windowRegs p) :
    a ≠ p.regMrw := by
  rintro rfl
  have hm : p.regMrw ∈ windowAddresses := (paramsWf_perm h).mem_iff.1 ha
  simp [paramsWf, hm] at h

theorem paramsWf_cursor_ne_mrw {p : Params} (h : paramsWf p = true) {a : Half} (ha : a ∈ cursorRegs) :
    a ≠ p.regMrw := by
  rintro rfl
  simp [paramsWf, ha] at h

theorem paramsWf_cursor_notMem_window {p : Params} (h : paramsWf p = true) {a : Half} (ha : a ∈ cursorRegs) :
    a ∉ windowRegs p := by
  rw [(paramsWf_perm h).mem_iff]
  simp only [cursorRegs, List.mem_cons, List.not_mem_nil, or_false] at ha
  rcases ha with rfl | rfl | rfl | rfl <;> decide

/-! ### The lists consist of bus transactions -/

theorem busOnly_plain (ws : List BusWord) : BusOnly (ws.map plain) := by
  intro m hm
  obtain ⟨w, -, rfl⟩ := List.mem_map.1 hm
  exact ⟨w, .none, .none, rfl⟩

theorem busOnly_setcur (x y : Half) : BusOnly (setcurSteps x y) := by
  simp [BusOnly, setcurSteps, regw, plain]

theorem busOnly_setwin (p : Params) (x0 x1 y0 y1 : Half) : BusOnly (setwinSteps p x0 x1 y0 y1) := by
  simp [BusOnly, setwinSteps, regw, plain]

theorem busOnly_beginwr (p : Params) : BusOnly (beginwrSteps p) := by
  simp [BusOnly, beginwrSteps]

theorem busOnly_burst (vs : List Half) : BusOnly (burst vs) := by
  simp [BusOnly, burst, plain]

theorem busOnly_flatMap {α : Type} (f : α → List Micro) (l : List α) (h : ∀ a ∈ l, BusOnly (f a)) :
    BusOnly (l.flatMap f) := by
  intro m hm
  obtain ⟨a, ha, hm⟩ := List.mem_flatMap.1 hm
  exact h a ha m hm

theorem busOnly_regw (a v : Half) : BusOnly (regw a v) := by simp [BusOnly, regw, plain]

theorem busOnly_initseq (p : Params) : BusOnly (initseqSteps p) :=
  busOnly_flatMap _ _ fun _ _ => busOnly_regw _ _

theorem busOnly_fillrect (p : Params) (w h : Nat) (x0 x1 y0 y1 c : Half) :
    BusOnly (fillrectSteps p w h x0 x1 y0 y1 c) :=
  ((((busOnly_setwin _ _ _ _ _).append (busOnly_setcur _ _)).append (busOnly_beginwr p)).append
    (busOnly_burst _)).append (busOnly_setwin _ _ _ _ _)

theorem busOnly_blit (p : Params) (w h : Nat) (x0 y0 bw bh : Half) (bytes : List Byte) :
    BusOnly (blitSteps p w h x0 y0 bw bh bytes) := by
  refine ((((busOnly_setwin _ _ _ _ _).append (busOnly_setcur _ _)).append (busOnly_beginwr p)).append
    (busOnly_burst _)).append ?_
  split
  · exact busOnly_setwin _ _ _ _ _
  · simp [BusOnly]

theorem busOnly_textrun (p : Params) (x y c : Half) (bytes : List Byte) : BusOnly (textrunSteps p x y c bytes) :=
  (((busOnly_flatMap _ _ fun _ _ => busOnly_regw _ _).append (busOnly_setcur _ _)).append (busOnly_beginwr p)).append
    (busOnly_burst _)

theorem busOnly_request (p : Params) (w h : Nat) (r : Request) : BusOnly (requestSteps p w h r) := by
  cases r
  · exact busOnly_blit _ _ _ _ _ _ _ _
  · exact busOnly_fillrect _ _ _ _ _ _ _ _
  · exact busOnly_textrun _ _ _ _ _

/-! ### The transactions -/

@[simp] theorem busWords_setcur (x y : Half) : busWords (setcurSteps x y) = cursorWords x y := by
  simp [busWords, setcurSteps, regw, plain, cursorWords, regCurXL, regCurXH, regCurYL, regCurYH]

@[simp] theorem busWords_setwin (p : Params) (x0 x1 y0 y1 : Half) :
    busWords (setwinSteps p x0 x1 y0 y1) = windowWords p x0 x1 y0 y1 := by
  simp [busWords, setwinSteps, regw, plain, windowWords]

@[simp] theorem busWords_setfull (p : Params) (w h : Nat) : busWords (setfullSteps p w h) = fullWords p w h :=
  busWords_setwin ..

@[simp] theorem busWords_beginwr (p : Params) : busWords (beginwrSteps p) = [cmdWord p.regMrw] := rfl

@[simp] theorem busWords_burst (vs : List Half) : busWords (burst vs) = vs.map datWord := by
  induction vs with
  | nil => rfl
  | cons v vs ih => exact congrArg (datWord v :: ·) ih

theorem busWords_flatMap_regw {α : Type} (f g : α → Half) (l : List α) :
    busWords (l.flatMap fun a => regw (f a) (g a)) = l.flatMap fun a => [cmdWord (f a), datWord (g a)] := by
  induction l with
  | nil => rfl
  | cons a l ih =>
    simp only [List.flatMap_cons, busWords_append, ih]
    rfl

@[simp] theorem busWords_initseq (p : Params) : busWords (initseqSteps p) = initWords p := busWords_flatMap_regw ..

@[simp] theorem busWords_fillrect (p : Params) (w h : Nat) (x0 x1 y0 y1 c : Half) :
    busWords (fillrectSteps p w h x0 x1 y0 y1 c) = fillWords p w h x0 x1 y0 y1 c := by
  simp [fillrectSteps, busWords_append, fillWords, fillCount, fillPixels]

theorem half_eq (b0 b1 : Byte) : half b0 b1 = BitVec.ofNat 16 (b0.toNat * 256 + b1.toNat) := by
  apply BitVec.eq_of_toNat_eq
  have h0 := b0.isLt
  have h1 := b1.isLt
  rw [half, BitVec.toNat_append, Nat.shiftLeft_eq, Nat.mul_comm,
    ← Nat.two_pow_add_eq_or_of_lt (i := 8) h1 b0.toNat, BitVec.toNat_ofNat]
  omega

/-- The pixels of a payload of `n` pixels are the pairs R99 numbers. -/
theorem pixels_eq (bytes : List Byte) {n : Nat} (h : bytes.length = n * 2) :
    pixels bytes = (List.range n).map (blitPixel bytes) := by
  induction n generalizing bytes with
  | zero => simp_all [pixels]
  | succ n ih =>
    match bytes, h with
    | [], h => simp at h
    | [_], h => simp at h; omega
    | b0 :: b1 :: rest, h =>
      have hr : rest.length = n * 2 := by simp at h; omega
      rw [pixels, ih rest hr, List.range_succ_eq_map, List.map_cons, List.map_map]
      congr 1
      · simpa [blitPixel] using half_eq b0 b1

theorem length_pixels (bytes : List Byte) {n : Nat} (h : bytes.length = n * 2) :
    (pixels bytes).length = n := by simp [pixels_eq bytes h]

theorem busWords_blit (p : Params) (w h : Nat) (x0 y0 bw bh : Half) (bytes : List Byte)
    (hl : bytes.length = bw.toNat * bh.toNat * 2) :
    busWords (blitSteps p w h x0 y0 bw bh bytes) = blitWords p w h x0 y0 bw bh bytes := by
  simp only [blitSteps, busWords_append, busWords_setwin, busWords_setcur, busWords_beginwr, busWords_burst,
    pixels_eq bytes hl, blitWords, blitBodyWords, spanEnd, List.map_map, Function.comp_def]
  congr 1
  split
  · exact busWords_setfull ..
  · rfl

theorem setWidth_byte (b : Byte) : b.setWidth 16 = BitVec.ofNat 16 b.toNat := by
  apply BitVec.eq_of_toNat_eq; simp

@[simp] theorem busWords_textrun (p : Params) (x y c : Half) (bytes : List Byte) :
    busWords (textrunSteps p x y c bytes) = textWordsOf p x y c bytes := by
  simp only [textrunSteps, busWords_append, colorSteps, busWords_flatMap_regw, textWordsOf, textWords,
    busWords_setcur, busWords_beginwr, busWords_burst, List.map_map, Function.comp_def, setWidth_byte]

/-- The transactions of a valid request (R184 step 6). -/
theorem busWords_request (p : Params) (w h : Nat) (r : Request) (hv : validRequest w h r = true) :
    busWords (requestSteps p w h r) = requestWords p w h r := by
  cases r with
  | blit x0 y0 bw bh bytes =>
    simp only [validRequest, decide_eq_true_eq] at hv
    exact busWords_blit _ _ _ _ _ _ _ _ hv.1
  | fillrect => exact busWords_fillrect ..
  | textrun => exact busWords_textrun ..

/-! ### Lengths -/

@[simp] theorem length_setcur (x y : Half) : (setcurSteps x y).length = 8 := rfl
@[simp] theorem length_setwin (p : Params) (x0 x1 y0 y1 : Half) : (setwinSteps p x0 x1 y0 y1).length = 16 := rfl
@[simp] theorem length_setfull (p : Params) (w h : Nat) : (setfullSteps p w h).length = 16 := rfl
@[simp] theorem length_beginwr (p : Params) : (beginwrSteps p).length = 1 := rfl
@[simp] theorem length_burst (vs : List Half) : (burst vs).length = vs.length := List.length_map ..
@[simp] theorem length_copyframe (w h : Nat) : (copyframeSteps w h).length = w * h * 2 := by simp [copyframeSteps]
@[simp] theorem length_mirror (p : Params) (w h : Nat) : (mirrorSteps p w h).length = w * h * 2 + 26 := by
  simp [mirrorSteps]

@[simp] theorem length_fillrect (p : Params) (w h : Nat) (x0 x1 y0 y1 c : Half) :
    (fillrectSteps p w h x0 x1 y0 y1 c).length = 41 + fillPixels x0 x1 y0 y1 := by
  simp [fillrectSteps, fillCount, fillPixels]; omega

@[simp] theorem length_fillWords (p : Params) (w h : Nat) (x0 x1 y0 y1 c : Half) :
    (fillWords p w h x0 x1 y0 y1 c).length = 41 + fillPixels x0 x1 y0 y1 := by
  rw [← busWords_fillrect, busWords_length (busOnly_fillrect _ _ _ _ _ _ _ _), length_fillrect]

theorem length_request (p : Params) (w h : Nat) (r : Request) (hv : validRequest w h r = true) :
    (requestSteps p w h r).length = (requestWords p w h r).length := by
  rw [← busWords_request p w h r hv, busWords_length (busOnly_request _ _ _ _)]

@[simp] theorem length_initseq (p : Params) : (initseqSteps p).length = (initWords p).length := by
  rw [← busWords_initseq, busWords_length (busOnly_initseq p)]

/-! ### The registers and flags a delivered list leaves -/

/-- `SETCUR` delivered (R130). -/
theorem stepsCtl_setcur {p : Params} (hp : paramsWf p = true) (x y : Half) (c : Ctl) :
    stepsCtl p (setcurSteps x y) c = { c with
      curX := x, curY := y, curValid := true, writeArmed := false
      sel := 0x49#16, selValid := true, shd := (highPart y).value, shdValid := true } := by
  have h46 : regCurXL ≠ p.regMrw := paramsWf_cursor_ne_mrw hp (by decide)
  simp [stepsCtl, setcurSteps, regw, plain, microCtl, markCtl, wordCtl, cmdWord, datWord, cmdCtl, datCtl, h46,
    ← hi_eq_highPart, regCurYH]

/-- `SETWIN` delivered (R131). -/
theorem stepsCtl_setwin {p : Params} (hp : paramsWf p = true) (x0 x1 y0 y1 : Half) (c : Ctl) :
    stepsCtl p (setwinSteps p x0 x1 y0 y1) c = { c with
      winX0 := x0, winX1 := x1, winY0 := y0, winY1 := y1, winValid := true, curValid := false, writeArmed := false
      sel := p.regWinY1H, selValid := true, shd := (highPart y1).value, shdValid := true } := by
  have h : p.regWinX0L ≠ p.regMrw := paramsWf_window_ne_mrw hp (by simp [windowRegs])
  simp [stepsCtl, setwinSteps, regw, plain, microCtl, markCtl, wordCtl, cmdWord, datWord, cmdCtl, datCtl, h,
    ← hi_eq_highPart]

/-- `BEGINWR` delivered (R132). -/
theorem stepsCtl_beginwr (p : Params) (c : Ctl) :
    stepsCtl p (beginwrSteps p) c = { c with sel := p.regMrw, selValid := true, writeArmed := true } := by
  simp [stepsCtl, beginwrSteps, microCtl, markCtl, wordCtl, cmdWord, cmdCtl]

/-- A burst delivered while armed: the last word is the shadow, and the recorded cursor is no longer the chip's
pointer (R121, R95). -/
theorem stepsCtl_burst (p : Params) (vs : List Half) (c : Ctl) (ha : c.writeArmed = true) :
    stepsCtl p (burst vs) c = { c with
      shd := vs.getLast?.getD c.shd, shdValid := c.shdValid || !vs.isEmpty, curValid := c.curValid && vs.isEmpty } := by
  induction vs generalizing c with
  | nil => simp [stepsCtl, burst]
  | cons v vs ih =>
    have : stepsCtl p (burst (v :: vs)) c = stepsCtl p (burst vs) { c with
        shd := v, shdValid := true, curValid := false } := by
      simp [stepsCtl, burst, microCtl, plain, markCtl, wordCtl, datWord, datCtl, ha]
    rw [this, ih _ (by exact ha)]
    cases vs <;> simp [List.getLast?_cons]

end Sys2Proof.Machine
end

