-- ==== Sys2Proof/Laws/Chip.lean ====
section
/-! SUPPORT. What the transactions of the controller do to the reference chip (20_memory.md R70): a register write, the
window-set and cursor-set sequences, and a burst of pixels that fills its window in row-major order. -/

namespace Sys2Proof.Machine

/-! ### One register write -/

/-- All that a cursor register's write can do beside the pointer: the display stays or becomes undefined (R70, U1). -/
theorem chipCursor_frame (a : Half) (c : Chip) :
    (chipCursor a c).csel = c.csel ∧ (chipCursor a c).creg = c.creg ∧ (chipCursor a c).window = c.window
      ∧ (chipCursor a c).cursorSeen = seeCursor a c.cursorSeen ∧ (chipCursor a c).engineTraffic = c.engineTraffic
      ∧ ((chipCursor a c).vram = c.vram ∨ (chipCursor a c).vram = []) :=
  ⟨rfl, rfl, rfl, rfl, rfl, by simp only [chipCursor]; split <;> simp⟩

/-- The engine's pass frees the display and leaves the rest of the chip to R70 (U10, R256). -/
theorem chipAfter_frame (p : Params) (e : Bool) (w : BusWord) (c : Chip) :
    (chipAfter p e w c).csel = (chipDeliver p w c).csel ∧ (chipAfter p e w c).creg = (chipDeliver p w c).creg
      ∧ (chipAfter p e w c).window = (chipDeliver p w c).window
      ∧ (chipAfter p e w c).pointer = (chipDeliver p w c).pointer
      ∧ (chipAfter p e w c).vram = if e then [] else (chipDeliver p w c).vram := by
  cases e <;> exact ⟨rfl, rfl, rfl, rfl, rfl⟩

/-- A window register written (R70), with the engine's pass under way (`e`) or not. -/
theorem chipRun_window_write (p : Params) (e : Bool) {a : Half} (ha : a ∈ windowRegs p) (hm : a ≠ p.regMrw)
    (hc : a ∉ cursorRegs) (v : Half) (c : Chip) :
    chipRun p e [cmdWord a, datWord v] c = { c with
      csel := some a
      creg := sparseWrite a.toNat v c.creg
      window := chipWindow p { c with csel := some a, creg := sparseWrite a.toNat v c.creg }
      pointer := none
      cursorSeen := ⟨false, false, false, false⟩
      vram := if e then [] else c.vram
      engineTraffic := e || (c.engineTraffic && a != p.regWinX0L) } := by
  cases e <;> simp [chipRun, chipAfter, chipDeliver, cmdWord, datWord, hm, chipRegister, ha, hc]
  rfl

/-- A cursor register written (R70), with the engine's pass under way (`e`) or not: a pointer outside the window makes
the display undefined (R66 item 6). -/
theorem chipRun_cursor_write (p : Params) (e : Bool) {a : Half} (ha : a ∈ cursorRegs) (hm : a ≠ p.regMrw)
    (hw : a ∉ windowRegs p) (v : Half) (c : Chip) :
    chipRun p e [cmdWord a, datWord v] c =
      let pt := chipPointer { c with creg := sparseWrite a.toNat v c.creg, cursorSeen := seeCursor a c.cursorSeen }
      { c with
        csel := some a
        creg := sparseWrite a.toNat v c.creg
        pointer := pt
        cursorSeen := seeCursor a c.cursorSeen
        vram := if e || pointerOutside c.window pt then [] else c.vram
        engineTraffic := e || c.engineTraffic } := by
  cases e <;> simp [chipRun, chipAfter, chipDeliver, cmdWord, datWord, hm, chipRegister, ha, hw, chipCursor]
  exacts [⟨rfl, rfl⟩, rfl]

/-- The window depends only on the register file. -/
theorem chipWindow_congr (p : Params) {c d : Chip} (h : c.creg = d.creg) : chipWindow p c = chipWindow p d := by
  simp [chipWindow, chipPair, h]

/-- The two parts of a coordinate, put together again. -/
theorem parts_eq (v : Half) :
    (loByte (highPart v).value).toNat * 256 + (loByte (lowPart v).value).toNat = v.toNat := by
  have := v.isLt
  simp [loByte, highPart, lowPart, datWord]; omega

/-! ### The sequences -/

/-- What the window-set sequence makes of the chip: the window is the one sent, the pointer is unknown (R131, R70);
the display is as it was, or undefined with the engine's pass under way (U10). -/
theorem chipRun_window {p : Params} (hp : paramsWf p = true) (e : Bool) (x0 x1 y0 y1 : Half) (c : Chip) :
    ∃ g, chipRun p e (windowWords p x0 x1 y0 y1) c = { c with
      csel := some p.regWinY1H
      creg := g
      window := some ⟨x0.toNat, x1.toNat, y0.toNat, y1.toNat⟩
      pointer := none
      cursorSeen := ⟨false, false, false, false⟩
      vram := if e then [] else c.vram
      engineTraffic := e } := by
  have hw : ∀ a ∈ windowRegs p, a ≠ p.regMrw ∧ a ∉ cursorRegs := fun a ha =>
    ⟨paramsWf_window_ne_mrw hp ha, fun hc => paramsWf_cursor_notMem_window hp hc ha⟩
  have step : ∀ a ∈ windowRegs p, ∀ v c, chipRun p e [cmdWord a, datWord v] c = _ := fun a ha v c =>
    chipRun_window_write p e ha (hw a ha).1 (hw a ha).2 v c
  have hd := paramsWf_nodup hp
  simp only [windowRegs, List.nodup_cons, List.mem_cons, List.not_mem_nil, or_false, not_or, not_false_eq_true,
    List.nodup_nil, and_true] at hd
  have split : windowWords p x0 x1 y0 y1 =
      [cmdWord p.regWinX0L, lowPart x0] ++ [cmdWord p.regWinX0H, highPart x0]
        ++ [cmdWord p.regWinX1L, lowPart x1] ++ [cmdWord p.regWinX1H, highPart x1]
        ++ [cmdWord p.regWinY0L, lowPart y0] ++ [cmdWord p.regWinY0H, highPart y0]
        ++ [cmdWord p.regWinY1L, lowPart y1] ++ [cmdWord p.regWinY1H, highPart y1] := rfl
  refine ⟨(chipRun p e (windowWords p x0 x1 y0 y1) c).creg, ?_⟩
  rw [split]
  simp only [chipRun_append]
  have lp : ∀ v, lowPart v = datWord (lowPart v).value := fun _ => rfl
  have hp' : ∀ v, highPart v = datWord (highPart v).value := fun _ => rfl
  rw [lp x0, lp x1, lp y0, lp y1, hp' x0, hp' x1, hp' y0, hp' y1]
  rw [step p.regWinX0L (by simp [windowRegs]), step p.regWinX0H (by simp [windowRegs]),
    step p.regWinX1L (by simp [windowRegs]), step p.regWinX1H (by simp [windowRegs]),
    step p.regWinY0L (by simp [windowRegs]), step p.regWinY0H (by simp [windowRegs]),
    step p.regWinY1L (by simp [windowRegs]), step p.regWinY1H (by simp [windowRegs])]
  have key : ∀ a b : Half, (a.toNat = b.toNat) = (a = b) := fun a b => propext BitVec.toNat_inj
  congr 1
  · simp only [chipWindow, chipPair, sparseRead_write, key]
    simp [hd, parts_eq, eq_comm]
  · cases e <;> rfl
  · cases e <;> simp

/-- What the cursor-set sequence makes of a chip right after a window change: the pointer is the one sent (R130, R70);
the display is as it was, or undefined with the pointer outside the window (U1) or the engine's pass under way (U10). -/
theorem chipRun_cursor {p : Params} (hp : paramsWf p = true) (e : Bool) (x y : Half) (c : Chip)
    (hs : c.cursorSeen = ⟨false, false, false, false⟩) :
    ∃ g, chipRun p e (cursorWords x y) c = { c with
      csel := some regCurYH
      creg := g
      pointer := some (x.toNat, y.toNat)
      cursorSeen := ⟨true, true, true, true⟩
      vram := if e || pointerOutside c.window (some (x.toNat, y.toNat)) then [] else c.vram
      engineTraffic := e || c.engineTraffic } := by
  have step : ∀ a ∈ cursorRegs, ∀ v c, chipRun p e [cmdWord a, datWord v] c = _ := fun a ha v c =>
    chipRun_cursor_write p e ha (paramsWf_cursor_ne_mrw hp ha) (paramsWf_cursor_notMem_window hp ha) v c
  have split : cursorWords x y =
      [cmdWord regCurXL, datWord (lowPart x).value] ++ [cmdWord regCurXH, datWord (highPart x).value]
        ++ [cmdWord regCurYL, datWord (lowPart y).value] ++ [cmdWord regCurYH, datWord (highPart y).value] := rfl
  refine ⟨(chipRun p e (cursorWords x y) c).creg, ?_⟩
  rw [split]
  simp only [chipRun_append]
  rw [step regCurXL (by decide), step regCurXH (by decide), step regCurYL (by decide), step regCurYH (by decide)]
  cases e <;>
    simp [chipPointer, chipPair, seeCursor, pointerOutside, hs, parts_eq, regCurXL, regCurXH, regCurYL, regCurYH]

/-- `BEGINWR` selects the chip's RAM (R132, R70). -/
theorem chipRun_beginwr (p : Params) (c : Chip) :
    chipRun p false [cmdWord p.regMrw] c = { c with csel := some p.regMrw } := rfl

/-! ### A burst of pixels -/

theorem cellKey_inj {x y x' y' : Nat} (hx : x < 65536) (hx' : x' < 65536) (h : cellKey x y = cellKey x' y') :
    x = x' ∧ y = y' := by
  unfold cellKey at h; omega

/-- The pointer after `i` pixels in a window of width `w` and height `h` (R70, R99). -/
def pointerAfter (r : Rect) (w h i : Nat) : Nat × Nat := (r.x0 + i % w, r.y0 + i / w % h)

/-- A burst from the first cell of a window, at most one pass over it long: pixel `i` lands in row `i / w`, column
`i % w`, and no other cell changes (R70, R99). -/
theorem chipRun_burst (p : Params) (r : Rect) {w h : Nat} (hw : r.x1 + 1 = r.x0 + w) (hh : r.y1 + 1 = r.y0 + h)
    (hw0 : 0 < w) (hx1 : r.x1 < 65536) (vs : List Half) (hn : vs.length ≤ w * h) (c : Chip)
    (hs : c.csel = some p.regMrw) (he : c.engineTraffic = false) (hwin : c.window = some r)
    (hptr : c.pointer = some (r.x0, r.y0)) :
    ∃ m, chipRun p false (vs.map datWord) c = { c with
        pointer := some (pointerAfter r w h vs.length), vram := m }
      ∧ ∀ x y, x < 65536 → sparseRead (cellKey x y) m =
        if r.x0 ≤ x ∧ x ≤ r.x1 ∧ r.y0 ≤ y ∧ (y - r.y0) * w + (x - r.x0) < vs.length
        then vs[(y - r.y0) * w + (x - r.x0)]? else sparseRead (cellKey x y) c.vram := by
  induction vs using List.reverseRecOn with
  | nil =>
    refine ⟨c.vram, ?_, fun x y _ => by simp⟩
    cases c; simp_all [chipRun, pointerAfter]
  | append_singleton vs v ih =>
    simp only [List.length_append, List.length_singleton] at hn
    obtain ⟨m, hm, hread⟩ := ih (by omega)
    set i := vs.length with hi
    have hin : i < w * h := by omega
    have hdiv : i / w < h := Nat.div_lt_of_lt_mul hin
    have hmod : i % w < w := Nat.mod_lt _ hw0
    have hptr' : pointerAfter r w h i = (r.x0 + i % w, r.y0 + i / w) := by
      simp [pointerAfter, Nat.mod_eq_of_lt hdiv]
    have hdm : w * (i / w) + i % w = i := Nat.div_add_mod i w
    have hadv : advancePointer r (r.x0 + i % w) (r.y0 + i / w) = pointerAfter r w h (i + 1) := by
      unfold advancePointer pointerAfter
      by_cases hlast : i % w + 1 = w
      · obtain ⟨h2, h1⟩ := (Nat.div_mod_unique hw0 (a := i + 1) (d := i / w + 1) (c := 0)).2
          ⟨by rw [Nat.mul_add]; omega, hw0⟩
        rw [if_neg (by omega), h1, h2]
        by_cases hy : i / w + 1 < h
        · rw [if_pos (by omega), Nat.mod_eq_of_lt hy]; simp; omega
        · have : i / w + 1 = h := by omega
          rw [if_neg (by omega), this]; simp
      · obtain ⟨h2, h1⟩ := (Nat.div_mod_unique hw0 (a := i + 1) (d := i / w) (c := i % w + 1)).2 ⟨by omega, by omega⟩
        rw [if_pos (by omega), h1, h2, Nat.mod_eq_of_lt hdiv]; simp; omega
    refine ⟨sparseWrite (cellKey (r.x0 + i % w) (r.y0 + i / w)) v m, ?_, ?_⟩
    · rw [List.map_append, chipRun_append, hm]
      simp only [hptr', List.map_cons, List.map_nil, chipRun, List.foldl_cons, List.foldl_nil, chipAfter, chipDeliver,
        datWord, hs, beq_self_eq_true, if_true, chipPixel, hwin, he, Bool.false_eq_true, if_false]
      rw [if_pos (by simp [insideRect]; omega), hadv]
      simp [hi]
    · intro x y hx
      rw [sparseRead_write, List.length_append, List.length_singleton, ← hi]
      by_cases hk : cellKey x y = cellKey (r.x0 + i % w) (r.y0 + i / w)
      · obtain ⟨rfl, rfl⟩ := cellKey_inj hx (by omega) hk
        have hidx : (r.y0 + i / w - r.y0) * w + (r.x0 + i % w - r.x0) = i := by
          rw [Nat.add_sub_cancel_left, Nat.add_sub_cancel_left, Nat.mul_comm]; exact hdm
        rw [if_pos rfl, hidx, if_pos ⟨by omega, by omega, Nat.le_add_right .., by omega⟩]
        simp [hi]
      · rw [if_neg hk, hread x y hx]
        by_cases hin' : r.x0 ≤ x ∧ x ≤ r.x1 ∧ r.y0 ≤ y
        · have hne : (y - r.y0) * w + (x - r.x0) ≠ i := fun he => hk <| by
            obtain ⟨h2, h1⟩ := (Nat.div_mod_unique hw0 (a := i) (d := y - r.y0) (c := x - r.x0)).2
              ⟨by rw [Nat.mul_comm]; omega, by omega⟩
            congr 1 <;> omega
          by_cases hlt : (y - r.y0) * w + (x - r.x0) < i
          · rw [if_pos ⟨hin'.1, hin'.2.1, hin'.2.2, hlt⟩, if_pos ⟨hin'.1, hin'.2.1, hin'.2.2, by omega⟩,
              List.getElem?_append_left (by omega)]
          · rw [if_neg (fun hc => hlt hc.2.2.2), if_neg (fun hc => hlt (by omega))]
        · rw [if_neg (fun hc => hin' ⟨hc.1, hc.2.1, hc.2.2.1⟩), if_neg (fun hc => hin' ⟨hc.1, hc.2.1, hc.2.2.1⟩)]

end Sys2Proof.Machine
end

