-- ==== Sys2Proof/Laws/Encoding.lean ====
section
/-! SUPPORT. The bytes of the encodings: a 16-bit word and its two bytes, a number and its bytes, a descriptor and its
serialisation (30_encoding.md R91, R104). -/

namespace Sys2Proof

/-- A 16-bit word is its high byte and its low byte. -/
@[simp] theorem half_hiByte_loByte (v : Half) : half (hiByte v) (loByte v) = v := by
  apply BitVec.eq_of_toNat_eq
  have := v.isLt
  simp only [half, hiByte, loByte, BitVec.toNat_append, BitVec.extractLsb'_toNat, Nat.shiftRight_eq_div_pow,
    Nat.pow_zero, Nat.div_one]
  rw [← Nat.shiftLeft_add_eq_or_of_lt (by omega), Nat.shiftLeft_eq]
  omega

@[simp] theorem natBytes_length (k n : Nat) : (natBytes k n).length = k := by
  induction k with
  | zero => rfl
  | succ k ih => simp [natBytes, ih]

/-- Reading bytes on from a number already read. -/
theorem bytesNat_from (bs : List Byte) (a : Nat) :
    bs.foldl (fun n b => n * 256 + b.toNat) a = a * 256 ^ bs.length + bytesNat bs := by
  unfold bytesNat
  induction bs generalizing a with
  | nil => simp
  | cons b bs ih =>
    simp only [List.foldl_cons, List.length_cons]
    rw [ih, ih (0 * 256 + b.toNat)]
    ring

/-- The number of the low `k` bytes of `n` is `n` modulo `256 ^ k`. -/
theorem bytesNat_natBytes (k n : Nat) : bytesNat (natBytes k n) = n % 256 ^ k := by
  induction k with
  | zero => simp [natBytes, bytesNat, Nat.mod_one]
  | succ k ih =>
    rw [natBytes]
    show List.foldl _ (0 * 256 + (BitVec.ofNat 8 (n / 256 ^ k)).toNat) _ = _
    rw [bytesNat_from, ih, natBytes_length]
    simp only [Nat.zero_mul, Nat.zero_add, BitVec.toNat_ofNat, Nat.reducePow]
    rw [pow_succ, Nat.mod_mul, Nat.mul_comm (256 ^ k), Nat.add_comm]

/-- The two bytes of a number that fits in 16 bits. -/
theorem natBytes_two {k : Nat} (h : k < 2 ^ 16) : natBytes 2 k = halfBytes (BitVec.ofNat 16 k) := by
  simp only [natBytes, halfBytes, hiByte, loByte, List.cons.injEq, and_true]
  constructor
  · apply BitVec.eq_of_toNat_eq
    simp [Nat.shiftRight_eq_div_pow, BitVec.toNat_ofNat, BitVec.extractLsb'_toNat]
    omega
  · apply BitVec.eq_of_toNat_eq
    simp [BitVec.toNat_ofNat, BitVec.extractLsb'_toNat]

/-- A serialised descriptor is read back as it was (R104). -/
@[simp] theorem decodeDescriptor_encodeDescriptor (d : Descriptor) :
    decodeDescriptor (encodeDescriptor d) = some d := by
  simp [decodeDescriptor, encodeDescriptor, halfBytes]

/-- The header a request is given declares its payload's length (R104). -/
theorem descriptorOf_plen (h0 h1 h2 h3 h4 h5 : Half) {b : List Byte} (h : b.length < 2 ^ 32) :
    (descriptorOf h0 h1 h2 h3 h4 h5 b).plen = b.length := by
  simp only [descriptorOf, Descriptor.plen, BitVec.toNat_ofNat]
  omega

theorem descriptorOf_wf (h0 h1 h2 h3 h4 h5 : Half) {b : List Byte} (h : b.length < 2 ^ 32) :
    (descriptorOf h0 h1 h2 h3 h4 h5 b).wf = true := by
  simp only [Descriptor.wf, descriptorOf_plen _ _ _ _ _ _ h]
  simp [descriptorOf]

/-- What the decoder reads behind a number of R111 is the operation of that number. -/
theorem opNumber_of_decodeOpid {n : Byte} {ops : List Byte} {i : Instr} (h : decodeOpid (n :: ops) = .ok i) :
    opNumber i = some n.toNat := by
  simp only [decodeOpid] at h
  split at h
  case h_20 => split at h <;> cases h
  all_goals
    simp only [*]
    simp only [decodeWordOperand, noOperands, decodeSetcur, decodeSetwin, decodeFillrect, decodeBlit, decodeTextrun,
      decodeAcq, decodeSubmit, decodeAttach] at h
    split at h
    · first
      | cases h; rfl
      | split at h <;> cases h; rfl
    · cases h

end Sys2Proof
end

