-- ==== Sys2Proof/Laws/Steps.lean ====
section
/-! SUPPORT. Said once, everything a step can do: the inversion of `exec`, `moveStep`, `autoStep` and `step` into the
shared operations they are made of. -/

namespace Sys2Proof.Machine

/-- The ways one state can follow another, once the entry of the input is taken away; `beside` says whether the entry may
be an operation the holder executes beside its own list, `setwin` whether it may be a bare `SETWIN`, `env` whether it may
be a move of the environment. -/
inductive Follows (beside setwin env : Prop) (s : State) : State → Prop where
  | stay : Follows beside setwin env s s
  | word (hb : beside) (w : BusWord) (hd : s.dev = .attached) (hg : s.gate ≠ .free) :
    Follows beside setwin env s (busTransaction w s).final
  | bareSetcur (hb : beside) (x y : Half) (hd : s.dev = .attached) (hg : s.gate ≠ .free) :
    Follows beside setwin env s (runBare (setcurSteps x y) s).final
  | bareSetwin (hb : beside) (x0 x1 y0 y1 : Half) (hs : setwin) (hd : s.dev = .attached) (hg : s.gate ≠ .free) :
    Follows beside setwin env s (runBare (setwinSteps s.cfg x0 x1 y0 y1) s).final
  | bareBeginwr (hb : beside) (hd : s.dev = .attached) (hg : s.gate ≠ .free) :
    Follows beside setwin env s (runBare (beginwrSteps s.cfg) s).final
  | shadow (hd : s.dev = .attached) (hg : s.gate ≠ .free) : Follows beside setwin env s (readShadow s)
  | runRequest (k : Nat) (r : Request) (hd : s.dev = .attached) (hg : s.gate = .heldFG k)
    (hs : slotOf s k = some (.running r)) (hv : validRequest s.width s.height r = true) :
    Follows beside setwin env s (holderRun s)
  | reject (k : Nat) (r : Request) (hd : s.dev = .attached) (hg : s.gate = .heldFG k)
    (hs : slotOf s k = some (.running r)) (hv : validRequest s.width s.height r = false) :
    Follows beside setwin env s (endRequest k .sizeMismatch s)
  | runMirror (hd : s.dev = .attached) (hg : s.gate = .heldIRQ) (hm : s.mirror = .mirroring) :
    Follows beside setwin env s (holderRun s)
  | copyFrame (hd : s.dev = .attached) (hg : s.gate = .heldIRQ) (hm : s.mirror = .mirroring) (hi : s.irqSeqPc = 0) :
    Follows beside setwin env s (runOperation (copyframeSteps s.width s.height) s).final
  | oneStep (hg : s.gate ≠ .free) : Follows beside setwin env s (holderStep s)
  | release (hr : holderRest s = some []) : Follows beside setwin env s (release s)
  | latch (hd : s.dev = .attached) : Follows beside setwin env s { s with irqPending := true }
  | acquire (k : Nat) (r : Request) (t : Nat) (hs : slotOf s k = some (.waiting r t)) :
    Follows beside setwin env s (acquire k r t s)
  | tryAcquire (hd : s.dev = .attached) (hh : s.handler = .tryAcq) : Follows beside setwin env s (tryAcquire s)
  | submit (k : Nat) (d : Descriptor) (hs : slotOf s k = some .empty) :
    Follows beside setwin env s (setSlot k (portAnswer d s) s)
  | initialise (hd : s.dev = .attached) (hi : s.initDue = true) : Follows beside setwin env s (replayInit s)
  | attach (w h b n : Nat) (hd : s.dev = .detached) (ha : attachAccepts w h n = true) :
    Follows beside setwin env s (replayInit (attachReset w h b s))
  | detach (he : detachEnabled s = true) : Follows beside setwin env s (detachNow s)
  | detachWaits (hd : s.dev = .attached) (he : detachEnabled s = false) :
    Follows beside setwin env s { s with detachPending := true }
  | enter (hd : s.dev = .attached) (hh : s.handler = .idle) (hp : s.irqPending = true) :
    Follows beside setwin env s (handlerEnter s)
  | acknowledge (v : Word) (hd : s.dev = .attached) (hh : s.handler = .ack v) :
    Follows beside setwin env s (handlerAck v s)
  | decide (v : Word) (hd : s.dev = .attached) (hh : s.handler = .decide v) :
    Follows beside setwin env s (handlerDecide v s)
  | take (k : Nat) (res : Result) (he : env) (hs : slotOf s k = some (.done res)) :
    Follows beside setwin env s (handOver k res s)
  | tick (he : env) : Follows beside setwin env s (tickAll s)
  | status (v : Word) (he : env) : Follows beside setwin env s { s with hostStatus := v }
  | busAnswers (n : Option Nat) (he : env) : Follows beside setwin env s { s with busPlan := n }
  | writeHost (a : Nat) (b : Byte) (he : env) : Follows beside setwin env s { s with fb := sparseWrite a b s.fb }
  | writeStaging (i : Nat) (b : Byte) (he : env) (hd : s.dev = .attached) (hi : i < frameSize s) :
    Follows beside setwin env s (sbWrite s i b)

/-- Only the operations beside the holder's list and the environment's moves depend on what the entry is. -/
theorem Follows.imp {b c p q e f : Prop} {s t : State} (hbc : b → c) (hpq : p → q) (hef : e → f)
    (h : Follows b p e s t) : Follows c q f s t := by
  cases h
  case word hb w hd hg => exact .word (hbc hb) w hd hg
  case bareSetcur hb x y hd hg => exact .bareSetcur (hbc hb) x y hd hg
  case bareSetwin hb x0 x1 y0 y1 hs hd hg => exact .bareSetwin (hbc hb) x0 x1 y0 y1 (hpq hs) hd hg
  case bareBeginwr hb hd hg => exact .bareBeginwr (hbc hb) hd hg
  case runRequest k r hd hg hs hv => exact .runRequest k r hd hg hs hv
  case runMirror hd hg hm => exact .runMirror hd hg hm
  all_goals (constructor <;> first | assumption | exact hef ‹e›)

theorem attached_of_ne {s : State} (h : ¬ s.dev = .detached) : s.dev = .attached := by
  cases hs : s.dev <;> simp_all

theorem drawing_follows {b q e : Prop} {r : Request} {s t : State} (h : drawing r s = .next t) : Follows b q e s t := by
  unfold drawing at h
  split at h
  · cases h
  · rename_i hd
    have hd := attached_of_ne hd
    split at h
    · cases h
    · cases h
    · rename_i k hg
      split at h
      · rename_i hs
        split at h
        · rename_i hv
          cases h; exact .runRequest k r hd hg hs hv
        · rename_i hv
          cases h; exact .reject k r hd hg hs (by simpa using hv)
      · cases h

/-- An operation that answers a next state does one of these things. -/
theorem exec_follows {i : Instr} {s t : State} (h : exec i s = .next t) :
    Follows (besideTheList i = true) (∃ x0 x1 y0 y1, i = .setwin x0 x1 y0 y1) False s t := by
  cases i
  case wcmd a => simp only [exec, execWcmd] at h; obtain ⟨hd, hg, rfl⟩ := byHolder_next h; exact .word rfl _ hd hg
  case wdat v => simp only [exec, execWdat] at h; obtain ⟨hd, hg, rfl⟩ := byHolder_next h; exact .word rfl _ hd hg
  case blit => exact drawing_follows h
  case fillrect => exact drawing_follows h
  case textrun => exact drawing_follows h
  case rdat => simp only [exec, execRdat] at h; obtain ⟨hd, hg, rfl⟩ := byHolder_next h; exact .shadow hd hg
  case setcur x y =>
    simp only [exec, execSetcur] at h
    obtain ⟨hd, hg, rfl⟩ := byHolder_next h
    exact .bareSetcur rfl x y hd hg
  case setwin x0 x1 y0 y1 =>
    simp only [exec, execSetwin] at h
    obtain ⟨hd, hg, rfl⟩ := byHolder_next h
    exact .bareSetwin rfl x0 x1 y0 y1 ⟨x0, x1, y0, y1, rfl⟩ hd hg
  case beginwr =>
    simp only [exec, execBeginwr] at h
    obtain ⟨hd, hg, rfl⟩ := byHolder_next h
    exact .bareBeginwr rfl hd hg
  case irq =>
    simp only [exec, execIrq] at h
    split at h <;> cases h
    · exact .latch ‹_›
    · exact .stay
  case mirror =>
    simp only [exec, execMirror] at h
    split at h <;> cases h
    rename_i hc
    simp only [inMirrorCycle, Bool.and_eq_true, beq_iff_eq] at hc
    exact .runMirror hc.1.1 hc.1.2 hc.2
  case copyframe =>
    simp only [exec, execCopyframe] at h
    split at h <;> cases h
    rename_i hc
    simp only [inMirrorCycle, Bool.and_eq_true, beq_iff_eq] at hc
    exact .copyFrame hc.1.1.1 hc.1.1.2 hc.1.2 hc.2
  case acq k =>
    simp only [exec, execAcq] at h
    split at h <;> cases h
    exact .acquire k _ _ ‹_›
  case tryacq =>
    simp only [exec, execTryacq] at h
    split at h <;> cases h
    rename_i hc
    exact .tryAcquire hc.1 hc.2
  case rel =>
    simp only [exec, execRel] at h
    split at h
    · cases h
    · split at h <;> cases h
      exact .release ‹_›
  case submit k d =>
    simp only [exec, execSubmit] at h
    split at h <;> cases h
    exact .submit k d ‹_›
  case attach w h' b n =>
    simp only [exec, execAttach] at h
    split at h
    · cases h
    · rename_i hd
      have hd : s.dev = .detached := by cases hs : s.dev <;> simp_all
      split at h <;> cases h
      · exact .attach w h' b n hd ‹_›
      · exact .stay
  case initseq =>
    simp only [exec, execInitseq] at h
    split at h <;> cases h
    rename_i hc
    exact .initialise hc.1 hc.2
  case detach =>
    simp only [exec, execDetach] at h
    split at h
    · cases h
    · rename_i hd
      split at h <;> cases h
      · exact .detach ‹_›
      · rename_i he
        exact .detachWaits (attached_of_ne hd) (by simpa using he)
  all_goals
    simp only [exec, execRegWinX0L, execRegWinX0H, execRegWinY0L, execRegWinY0H, execRegWinX1L, execRegWinX1H,
      execRegWinY1L, execRegWinY1H, execRegCurXL, execRegCurXH, execRegCurYL, execRegCurYH, execRegMrw, execRegFgColor,
      selectRegister] at h
    obtain ⟨hd, hg, rfl⟩ := byHolder_next h
    exact .word rfl _ hd hg

theorem irqaStep_follows (b q e : Prop) (s : State) : Follows b q e s (irqaStep s) := by
  unfold irqaStep
  split
  · exact .stay
  · rename_i hd
    have hd := attached_of_ne hd
    split
    · split
      · exact .enter hd ‹_› ‹_›
      · exact .stay
    · exact .acknowledge _ hd ‹_›
    · exact .decide _ hd ‹_›
    · exact .tryAcquire hd ‹_›
    · split
      · rename_i hg
        exact .oneStep (by simp [hg])
      · exact .stay

theorem fgStep_follows (b q e : Prop) (k : Nat) (s : State) : Follows b q e s (fgStep k s) := by
  unfold fgStep
  split
  · exact .acquire k _ _ ‹_›
  · split
    · rename_i hg
      exact .oneStep (by simp [hg])
    · exact .stay
  · exact .stay

/-- A move that answers a next state does one of these things. -/
theorem moveStep_follows (b q : Prop) {m : Move} {s t : State} (h : moveStep m s = .next t) : Follows b q True s t := by
  cases m with
  | irqa => cases h; exact irqaStep_follows b q True s
  | fg k => cases h; exact fgStep_follows b q True k s
  | host =>
    cases h
    unfold hostStep
    split
    · rename_i hc
      simp only [Bool.and_eq_true] at hc
      exact .detach hc.2
    · exact .stay
  | take k =>
    cases h
    unfold takeResult
    split
    · exact .take k _ trivial ‹_›
    · exact .stay
  | tick => cases h; exact .tick trivial
  | status v => cases h; exact .status v trivial
  | busPlan n => cases h; exact .busAnswers n trivial
  | fbWrite a b => cases h; exact .writeHost a b trivial
  | sbWrite i b =>
    simp only [moveStep] at h
    split at h <;> cases h
    rename_i hc
    exact .writeStaging i b trivial hc.1 hc.2

/-- What the machine does when the input is empty is one of these things. -/
theorem autoStep_follows (b q : Prop) {s t : State} (h : autoStep s = .next t) : Follows b q True s t := by
  unfold autoStep at h
  split at h
  · cases h; exact .stay
  · exact moveStep_follows b q h

/-- A step that answers a next state takes the entry of the input away and then does one of these things. -/
theorem step_follows {s t : State} (h : step s = .next t) :
    ∃ rest, Follows (¬ onlyTheList s) (¬ noBareSetwin s) True { s with input := rest } t := by
  unfold step fetch at h
  cases hs : s.input with
  | nil =>
    rw [hs] at h
    exact ⟨s.input, autoStep_follows _ _ h⟩
  | cons e rest =>
    rw [hs] at h
    refine ⟨rest, ?_⟩
    cases e with
    | move m => exact moveStep_follows _ _ h
    | op f bs =>
      simp only at h
      split at h
      · rename_i i hi
        refine (exec_follows h).imp (fun hb hno => ?_) ?_ False.elim
        · simp [hno f bs rest i hs hi] at hb
        · rintro ⟨x0, x1, y0, y1, rfl⟩ hno
          exact hno f bs rest x0 x1 y0 y1 hs hi
      · cases h

end Sys2Proof.Machine
end

