-- ==== Sys2Proof/Laws/GateInvariant.lean ====
section
/-! SUPPORT. For each shared operation, that it keeps `GateInv` (10_state.md R40 items 1, 2 and 7): who holds the gate is
who mirrors or runs, and an unusable device has no holder. -/

namespace Sys2Proof.Machine

/-- `GateInv` reads only these parts of the state. -/
theorem GateInv.congr {s t : State} (h : GateInv s) (e1 : t.mirror = s.mirror) (e2 : t.gate = s.gate)
    (e3 : t.handler = s.handler) (e4 : ∀ k, slotOf t k = slotOf s k) (e5 : t.unusable = s.unusable) (e6 : t.dev = s.dev)
    (e7 : t.initDue = s.initDue) (e8 : t.width = s.width) (e9 : t.height = s.height) : GateInv t where
  mirrorIff := by rw [e1, e2]; exact h.mirrorIff
  cycleIff := by rw [e3, e2]; exact h.cycleIff
  runningIff k := by simp only [runningAt, e4, e2]; exact h.runningIff k
  unusableFree := by rw [e5, e2]; exact h.unusableFree
  detachedIdle := by rw [e6, e2, e3]; exact h.detachedIdle
  attachDone := by rw [e7]; exact h.attachDone
  admitted k r := by rw [e4, e8, e9]; exact h.admitted k r

theorem GateInv.untouched {s t : State} (h : GateInv s) (u : Untouched s t) : GateInv t :=
  h.congr u.mirror u.gate u.handler u.slots u.unusable u.dev u.initDue u.width u.height

/-- `IRQA` holds the gate nowhere in its handler but in the mirror cycle. -/
theorem GateInv.not_heldIRQ {s : State} (h : GateInv s) (hh : s.handler ≠ .cycle) : s.gate ≠ .heldIRQ :=
  fun e => hh (h.cycleIff.2 e)

/-- A BusFault leaves nobody holding the gate, whoever held it. -/
theorem takeBusFault_returns (s : State) :
    (s.gate ≠ .heldIRQ → (takeBusFault s).mirror = s.mirror ∧ (takeBusFault s).handler = s.handler)
      ∧ (s.gate = .heldIRQ → (takeBusFault s).mirror = .idle ∧ (takeBusFault s).handler = .idle) := by
  cases hg : s.gate with
  | free => simp [takeBusFault_free hg]
  | heldFG k => simp [takeBusFault_fg hg]
  | heldIRQ => simp [takeBusFault_irq hg]

theorem GateInv.takeBusFault {s : State} (h : GateInv s) : GateInv (takeBusFault s) := by
  obtain ⟨hgate, -, -, hdev, -, -, -, -, -, hw, hh, -, -, hi, -⟩ := takeBusFault_always s
  obtain ⟨hne, heq⟩ := takeBusFault_returns s
  have hrun : ∀ j r, slotOf (Machine.takeBusFault s) j ≠ some (.running r) := fun j r hr => by
    rw [slotOf_takeBusFault] at hr
    split at hr
    · simp at hr
    · simp only [Option.map_eq_some_iff, failSlot_eq_running, exists_eq_right] at hr
      exact ‹¬ _› ((h.runningIff j).1 ⟨r, hr⟩)
  have hwait : ∀ j r t, slotOf (Machine.takeBusFault s) j ≠ some (.waiting r t) := fun j r t hr => by
    rw [slotOf_takeBusFault] at hr
    split at hr <;> simp [failSlot_ne_waiting] at hr
  refine ⟨?_, ?_, ?_, fun _ => hgate, ?_, hi ▸ h.attachDone, ?_⟩
  · by_cases hg : s.gate = .heldIRQ
    · simp [hgate, (heq hg).1]
    · simpa [hgate, (hne hg).1, hg] using h.mirrorIff
  · by_cases hg : s.gate = .heldIRQ
    · simp [hgate, (heq hg).2]
    · simpa [hgate, (hne hg).2, hg] using h.cycleIff
  · intro j
    rw [hgate]
    exact ⟨fun ⟨r, hr⟩ => absurd hr (hrun j r), fun e => by cases e⟩
  · intro hd
    obtain ⟨hg, hidle⟩ := h.detachedIdle (hdev ▸ hd)
    exact ⟨hgate, by rw [(hne (by simp [hg])).2, hidle]⟩
  · rintro j r (hr | ⟨t, hr⟩)
    exacts [absurd hr (hrun j r), absurd hr (hwait j r t)]

theorem GateInv.endRequest {s : State} (h : GateInv s) {k : Nat} {res : Result} (hg : s.gate = .heldFG k) :
    GateInv (endRequest k res s) := by
  have hs : ∀ j, slotOf (Machine.endRequest k res s) j =
      if k = j then (slotOf s j).map fun _ => .done res else slotOf s j := fun j => slotOf_setSlot k j _ _
  refine ⟨?_, ?_, fun j => ⟨?_, fun e => by cases e⟩, fun _ => rfl, fun hd => ?_, h.attachDone, fun j r hr => ?_⟩
  · have := h.mirrorIff
    simp only [hg, reduceCtorEq, iff_false] at this
    simp [this]
  · have := h.cycleIff
    simp only [hg, reduceCtorEq, iff_false] at this
    simp [this]
  · rintro ⟨r, hr⟩
    rw [hs] at hr
    split at hr
    · simp at hr
    · have := (h.runningIff j).1 ⟨r, hr⟩
      rw [hg] at this
      cases this
      contradiction
  · have := (h.detachedIdle hd).1
    rw [hg] at this
    cases this
  · apply h.admitted j r
    simp only [hs] at hr
    split at hr
    · simp at hr
    · exact hr

theorem GateInv.release {s : State} (h : GateInv s) (hne : s.gate ≠ .free) : GateInv (release s) := by
  cases hg : s.gate with
  | free => exact absurd hg hne
  | heldFG k => rw [release_fg hg]; exact h.endRequest hg
  | heldIRQ =>
    rw [release_irq hg]
    refine ⟨by simp, by simp, fun j => ⟨fun hr => ?_, fun e => by cases e⟩, fun _ => rfl, fun hd => ?_, h.attachDone,
      h.admitted⟩
    · have := (h.runningIff j).1 hr
      rw [hg] at this
      cases this
    · have := (h.detachedIdle hd).1
      rw [hg] at this
      cases this

theorem GateInv.run {s : State} (h : GateInv s) {x : Run} (hx : Ran s x) : GateInv x.final := by
  rcases hx with ⟨t, rfl, ht⟩ | ⟨t, rfl, ht⟩
  exacts [h.untouched ht, (h.untouched ht).takeBusFault]

theorem GateInv.complete {s : State} (h : GateInv s) (hne : s.gate ≠ .free) {x : Run} (hx : Ran s x) :
    GateInv (complete x) := by
  rcases hx with ⟨t, rfl, ht⟩ | ⟨t, rfl, ht⟩
  exacts [(h.untouched ht).release (by rw [ht.gate]; exact hne), (h.untouched ht).takeBusFault]

theorem GateInv.holderRun {s : State} (h : GateInv s) : GateInv (holderRun s) := by
  unfold Machine.holderRun
  split
  · exact h
  · exact h.complete (gate_ne_free_of_rest ‹_›) (runOperation_cases _ s)

theorem GateInv.holderStep {s : State} (h : GateInv s) : GateInv (holderStep s) := by
  unfold Machine.holderStep
  split
  · exact h
  · exact h.release (gate_ne_free_of_rest ‹_›)
  · rename_i m _ _
    rcases microStep_cases m s with ⟨t, ht, hu⟩ | ⟨t, ht, hu⟩
    · rw [ht]; exact h.untouched (hu.trans (untouched_bumpSeq t))
    · rw [ht]; exact (h.untouched hu).takeBusFault

/-- A slot that is not running goes to a value that is not running, and waits only for a valid request. -/
theorem GateInv.setSlot {s : State} (h : GateInv s) {k : Nat} {v w : Slot} (hs : slotOf s k = some v)
    (hv : ∀ r, v ≠ .running r) (hw : ∀ r, w ≠ .running r)
    (ha : ∀ r t, w = .waiting r t → validRequest s.width s.height r = true) : GateInv (setSlot k w s) := by
  have hsl := fun j => slotOf_setSlot k j w s
  refine ⟨h.mirrorIff, h.cycleIff, fun j => ?_, h.unusableFree, h.detachedIdle, h.attachDone, fun j r hr => ?_⟩
  · show _ ↔ s.gate = _
    rw [← h.runningIff j]
    simp only [runningAt, hsl]
    split
    · subst_vars; simp [hs, hv, hw]
    · rfl
  · show validRequest s.width s.height r = true
    simp only [hsl] at hr
    split at hr
    · subst_vars
      simp only [hs, Option.map_some, Option.some.injEq, hw, false_or] at hr
      obtain ⟨t, ht⟩ := hr
      exact ha r t ht
    · exact h.admitted j r hr

theorem GateInv.endWaiting {s : State} (h : GateInv s) {k : Nat} {r : Request} {t : Nat} {res : Result}
    (hs : slotOf s k = some (.waiting r t)) : GateInv (Machine.setSlot k (.done res) s) :=
  h.setSlot hs (by simp) (by simp) (by simp)

theorem GateInv.acquire {s : State} (h : GateInv s) {k : Nat} {r : Request} {t : Nat}
    (hs : slotOf s k = some (.waiting r t)) : GateInv (acquire k r t s) := by
  unfold Machine.acquire
  split
  · exact h.endWaiting hs
  rename_i hdu
  push Not at hdu
  have hu : s.unusable = false := by simpa using hdu.2
  split
  case h_1 hg =>
    have hsl : ∀ j, slotOf (setSeqPc k 0 (Machine.setSlot k (.running r) { s with gate := .heldFG k })) j =
        if k = j then (slotOf s j).map fun _ => .running r else slotOf s j := fun j => by
      rw [slotOf_setSeqPc, slotOf_setSlot]; rfl
    refine ⟨?_, ?_, fun j => ?_, fun e => ?_, fun e => absurd e hdu.1, h.attachDone, fun j r' hr => ?_⟩
    · have := h.mirrorIff
      simp only [hg, reduceCtorEq, iff_false] at this
      simp [this]
    · have := h.cycleIff
      simp only [hg, reduceCtorEq, iff_false] at this
      simp [this]
    · have := h.runningIff j
      rw [hg] at this
      simp only [runningAt, hsl, setSeqPc_gate, setSlot_gate]
      split
      · subst_vars; simp [hs]
      · exact ⟨fun hr => by simpa using this.1 hr, fun e => by cases e; contradiction⟩
    · simp [hu] at e
    · show validRequest s.width s.height r' = true
      simp only [hsl] at hr
      split at hr
      · subst_vars
        simp only [hs, Option.map_some, Option.some.injEq, Slot.running.injEq, reduceCtorEq, exists_false, or_false] at hr
        exact hr ▸ h.admitted _ _ (.inr ⟨t, hs⟩)
      · exact h.admitted j r' hr
  all_goals
    split
    · exact h.endWaiting hs
    · exact h

theorem GateInv.handlerReturn {s : State} (h : GateInv s) (hne : s.gate ≠ .heldIRQ) : GateInv (handlerReturn s) :=
  ⟨by simp [hne], by simp [hne], h.runningIff, h.unusableFree, fun hd => ⟨(h.detachedIdle hd).1, rfl⟩, h.attachDone,
    h.admitted⟩

theorem GateInv.tryAcquire {s : State} (h : GateInv s) (hd : s.dev = .attached) (hh : s.handler = .tryAcq) :
    GateInv (tryAcquire s) := by
  unfold Machine.tryAcquire
  split
  · rename_i ho
    simp only [gateOpen, Bool.and_eq_true, beq_iff_eq, Bool.not_eq_eq_eq_not, Bool.not_true] at ho
    refine ⟨by simp, by simp, fun j => ⟨fun hr => ?_, fun e => by cases e⟩, fun e => ?_, fun e => ?_, h.attachDone,
      h.admitted⟩
    · have := (h.runningIff j).1 hr
      rw [ho.1] at this
      cases this
    · simp [ho.2] at e
    · simp [hd] at e
  · exact h.handlerReturn (h.not_heldIRQ (by simp [hh]))

/-- A port answers at once, or lets a valid request wait (R184 steps 1 to 4). -/
theorem portAnswer_cases (d : Descriptor) (s : State) :
    (∃ r, portAnswer d s = .waiting r 0 ∧ validRequest s.width s.height r = true) ∨ ∃ res, portAnswer d s = .done res := by
  unfold portAnswer
  split
  · exact .inr ⟨_, rfl⟩
  · split
    · exact .inr ⟨_, rfl⟩
    · split
      · exact .inl ⟨_, rfl, ‹_›⟩
      · exact .inr ⟨_, rfl⟩

theorem GateInv.submit {s : State} (h : GateInv s) {k : Nat} {d : Descriptor} (hs : slotOf s k = some .empty) :
    GateInv (Machine.setSlot k (portAnswer d s) s) := by
  refine h.setSlot hs (by simp) (fun r => ?_) fun r t he => ?_ <;>
    rcases portAnswer_cases d s with ⟨r', e, hv⟩ | ⟨r', e⟩ <;> simp_all

theorem GateInv.handlerDecide {s : State} (h : GateInv s) {v : Word} (hd : s.dev = .attached)
    (hh : s.handler = .decide v) : GateInv (handlerDecide v s) := by
  have hne := h.not_heldIRQ (by simp [hh])
  unfold Machine.handlerDecide
  split
  · exact h.handlerReturn hne
  · split
    · exact GateInv.handlerReturn (s := { s with faultCount := countUp s.faultCount })
        (h.congr rfl rfl rfl (fun _ => rfl) rfl rfl rfl rfl rfl) hne
    · exact ⟨h.mirrorIff, by simp [hne], h.runningIff, h.unusableFree, fun e => by simp [hd] at e, h.attachDone,
        h.admitted⟩

/-- `ATTACH` gives a state in which nobody holds anything, with `INITSEQ` still to run. -/
theorem gateInv_attachReset (w h b : Nat) (s : State) : GateInv { attachReset w h b s with initDue := false } := by
  have hsl : ∀ k v, slotOf { attachReset w h b s with initDue := false } k = some v → v = .empty := fun k v hv => by
    rw [slotOf, Option.map_eq_some_iff] at hv
    obtain ⟨f, hf, rfl⟩ := hv
    have := List.mem_of_getElem? hf
    simp only [attachReset, List.mem_map] at this
    obtain ⟨_, -, rfl⟩ := this
    rfl
  refine ⟨by simp [attachReset], by simp [attachReset], fun k => ⟨?_, fun e => by cases e⟩, ?_, ?_, rfl, ?_⟩
  · rintro ⟨r, hr⟩; cases hsl _ _ hr
  · intro e; simp [attachReset] at e
  · intro e; simp [attachReset] at e
  · rintro k r (hr | ⟨t, hr⟩) <;> cases hsl _ _ hr

theorem GateInv.detachNow {s : State} (h : GateInv s) (he : detachEnabled s = true) : GateInv (detachNow s) := by
  simp only [detachEnabled, Bool.and_eq_true, beq_iff_eq] at he
  have hsl : ∀ k, slotOf (Machine.detachNow s) k = (slotOf s k).map failSlot := fun k => by
    simp [slotOf, Machine.detachNow, Function.comp_def]
  have hrun : ∀ k r, slotOf (Machine.detachNow s) k ≠ some (.running r) := fun k r hr => by
    simp only [hsl, Option.map_eq_some_iff, failSlot_eq_running, exists_eq_right] at hr
    have := (h.runningIff k).1 ⟨r, hr⟩
    rw [he.1.2] at this
    cases this
  refine ⟨by simp [Machine.detachNow], by simp [Machine.detachNow], fun k => ⟨?_, fun e => by cases e⟩, fun _ => rfl,
    fun _ => ⟨rfl, rfl⟩, rfl, ?_⟩
  · rintro ⟨r, hr⟩; exact absurd hr (hrun k r)
  · rintro k r (hr | ⟨t, hr⟩)
    · exact absurd hr (hrun k r)
    · simp [hsl, failSlot_ne_waiting] at hr

theorem GateInv.handOver {s : State} (h : GateInv s) {k : Nat} {res : Result} (hs : slotOf s k = some (.done res)) :
    GateInv (handOver k res s) :=
  GateInv.setSlot (v := .done res) (s := { s with
      returned := s.returned ++ [(k, res)], events := s.events ++ [.completion k res] })
    (h.congr rfl rfl rfl (fun _ => rfl) rfl rfl rfl rfl rfl) hs (by simp) (by simp) (by simp)

theorem GateInv.tickAll {s : State} (h : GateInv s) : GateInv (tickAll s) := by
  have hsl : ∀ j, slotOf (Machine.tickAll s) j = (slotOf s j).map tickSlot := fun j => by
    simp [slotOf, Machine.tickAll, Function.comp_def]
  have hrun : ∀ v r, tickSlot v = .running r ↔ v = .running r := fun v r => by cases v <;> simp [tickSlot]
  refine ⟨h.mirrorIff, h.cycleIff, fun j => ?_, h.unusableFree, h.detachedIdle, h.attachDone, fun j r hr => ?_⟩
  · show _ ↔ s.gate = _
    rw [← h.runningIff j]
    simp [runningAt, hsl, hrun]
  · apply h.admitted j r
    simp only [hsl, Option.map_eq_some_iff, hrun, exists_eq_right] at hr
    refine hr.imp_right fun ⟨t, v, hv, ht⟩ => ?_
    cases v with
    | waiting r' t' =>
      simp only [tickSlot, Slot.waiting.injEq] at ht
      exact ⟨t', by rw [hv, ht.1]⟩
    | empty => cases ht
    | running _ => cases ht
    | done _ => cases ht

end Sys2Proof.Machine
end

