-- ==== Sys2Proof/Tests/Slice0.lean ====
section
/-! SUPPORT. The model's own tests: the ill-formed terms `Instr.wf` refuses, a word of the spec's encoding for every
constructor, vectors of 95_test_vectors.md as single steps on small states, and, for every statement of
Certificates/Slice0/Obligations.lean that has hypotheses, a concrete state and operands that meet them. -/

namespace Sys2Proof.Tests

open Sys2Proof Sys2Proof.Machine

/-! ### Well-formedness: one ill-formed term for each check -/

theorem wf_blit_of_length {p : List Byte} (h : p.length = 2 ^ 32) : Instr.wf (.blit 0 0 1 1 p) = false := by
  simp [Instr.wf, h]

theorem wf_fillrect_of_length {p : List Byte} (h : p.length = 2 ^ 32) : Instr.wf (.fillrect 0 0 0 0 0 p) = false := by
  simp [Instr.wf, h]

theorem wf_textrun_of_length {p : List Byte} (h : p.length = 2 ^ 32) : Instr.wf (.textrun 0 0 0 p) = false := by
  simp [Instr.wf, h]

theorem test_wf_refuses_blit_payload : Instr.wf (.blit 0 0 1 1 (List.replicate (2 ^ 32) 0)) = false :=
  wf_blit_of_length List.length_replicate
theorem test_wf_refuses_fillrect_payload : Instr.wf (.fillrect 0 0 0 0 0 (List.replicate (2 ^ 32) 0)) = false :=
  wf_fillrect_of_length List.length_replicate
theorem test_wf_refuses_textrun_payload : Instr.wf (.textrun 0 0 0 (List.replicate (2 ^ 32) 0)) = false :=
  wf_textrun_of_length List.length_replicate
theorem test_wf_refuses_acq_port : Instr.wf (.acq 65536) = false := by decide
theorem test_wf_refuses_submit_port : Instr.wf (.submit 65536 ⟨2, 0, 0, 0, 0, 0, 0, 0, []⟩) = false := by decide
theorem test_wf_refuses_attach_width : Instr.wf (.attach (2 ^ 32) 1 0 2) = false := by decide
theorem test_wf_refuses_attach_height : Instr.wf (.attach 1 (2 ^ 32) 0 2) = false := by decide
theorem test_wf_refuses_attach_base : Instr.wf (.attach 1 1 (2 ^ 64) 2) = false := by decide
theorem test_wf_refuses_attach_size : Instr.wf (.attach 1 1 0 (2 ^ 64)) = false := by decide

/-! ### Decoding: a word of the spec's encoding for every constructor (R91 to R93, R96, R104, R111) -/

-- V10: bit 16 is 0, then the address.
theorem test_decode_wcmd : decodeTableWord 24 0b00000000001000110 = some (.wcmd 0x0046) := by decide
-- V11: bit 16 is 1, then the value.
theorem test_decode_wdat : decodeTableWord 24 0b10000000000001010 = some (.wdat 0x000A) := by decide
-- R93: a data value that happens to equal an address.
theorem test_decode_wdat_not_wcmd : decodeTableWord 24 0x10030 = some (.wdat 0x0030) := by decide
-- V34: the header 0001 0002 0001 0002 0001 0000 0000 0004 and the payload F8 00 07 E0.
theorem test_decode_blit :
    decode .req [0x00, 0x01, 0x00, 0x02, 0x00, 0x01, 0x00, 0x02, 0x00, 0x01, 0x00, 0x00, 0x00, 0x00, 0x00, 0x04,
      0xF8, 0x00, 0x07, 0xE0] = .ok (.blit 2 1 2 1 [0xF8, 0x00, 0x07, 0xE0]) := by decide
-- V3: the header 0002 000A 0014 000A 0014 F800 0000 0000.
theorem test_decode_fillrect :
    decodeTableWord 128 0x0002000A0014000A0014F80000000000 = some (.fillrect 10 20 10 20 0xF800 []) := by decide
-- V38: the header 0003 0000 0000 07E0 0000 0000 0000 0002 and the payload 41 42.
theorem test_decode_textrun :
    decode .req [0x00, 0x03, 0x00, 0x00, 0x00, 0x00, 0x07, 0xE0, 0x00, 0x00, 0x00, 0x00, 0x00, 0x00, 0x00, 0x02,
      0x41, 0x42] = .ok (.textrun 0 0 0x07E0 [0x41, 0x42]) := by decide
theorem test_decode_rdat : decodeTableWord 8 0b00010 = some .rdat := by decide
theorem test_decode_setcur : decode .opid [0b00011, 0x03, 0x1F, 0x01, 0xDF] = .ok (.setcur 799 479) := by decide
theorem test_decode_setwin :
    decode .opid [0b00100, 0x00, 0x00, 0x03, 0x1F, 0x00, 0x00, 0x01, 0xDF] = .ok (.setwin 0 799 0 479) := by decide
theorem test_decode_beginwr : decodeTableWord 8 0b00101 = some .beginwr := by decide
theorem test_decode_irq : decodeTableWord 8 0b01001 = some .irq := by decide
theorem test_decode_mirror : decodeTableWord 8 0b01010 = some .mirror := by decide
theorem test_decode_copyframe : decodeTableWord 8 0b01011 = some .copyframe := by decide
theorem test_decode_acq : decode .opid [0b01100, 0x00, 0x01] = .ok (.acq 1) := by decide
theorem test_decode_tryacq : decodeTableWord 8 0b01101 = some .tryacq := by decide
theorem test_decode_rel : decodeTableWord 8 0b01110 = some .rel := by decide
-- The descriptor of P1 on port 1.
theorem test_decode_submit :
    decode .opid [0b01111, 0x00, 0x01, 0x00, 0x02, 0x00, 0x01, 0x00, 0x02, 0x00, 0x00, 0x00, 0x01, 0xAB, 0xCD,
      0x00, 0x00, 0x00, 0x00] = .ok (.submit 1 ⟨2, 1, 2, 0, 1, 0xABCD, 0, 0, []⟩) := by decide
theorem test_decode_attach :
    decode .opid [0b10000, 0, 0, 0x03, 0x20, 0, 0, 0x01, 0xE0, 0, 0, 0, 0, 0x80, 0, 0, 0, 0, 0, 0, 0, 0, 0x0B, 0xB8, 0]
      = .ok (.attach 800 480 0x80000000 768000) := by decide
theorem test_decode_initseq : decodeTableWord 8 0b10001 = some .initseq := by decide
theorem test_decode_detach : decodeTableWord 8 0b10010 = some .detach := by decide
theorem test_decode_regWinX0L : decodeTableWord 16 0x0030 = some .regWinX0L := by decide
theorem test_decode_regWinX0H : decodeTableWord 16 0x0031 = some .regWinX0H := by decide
theorem test_decode_regWinY0L : decodeTableWord 16 0x0032 = some .regWinY0L := by decide
theorem test_decode_regWinY0H : decodeTableWord 16 0x0033 = some .regWinY0H := by decide
theorem test_decode_regWinX1L : decodeTableWord 16 0x0034 = some .regWinX1L := by decide
theorem test_decode_regWinX1H : decodeTableWord 16 0x0035 = some .regWinX1H := by decide
theorem test_decode_regWinY1L : decodeTableWord 16 0x0036 = some .regWinY1L := by decide
theorem test_decode_regWinY1H : decodeTableWord 16 0x0037 = some .regWinY1H := by decide
theorem test_decode_regCurXL : decodeTableWord 16 0x0046 = some .regCurXL := by decide
theorem test_decode_regCurXH : decodeTableWord 16 0x0047 = some .regCurXH := by decide
theorem test_decode_regCurYL : decodeTableWord 16 0x0048 = some .regCurYL := by decide
theorem test_decode_regCurYH : decodeTableWord 16 0x0049 = some .regCurYH := by decide
theorem test_decode_regMrw : decodeTableWord 16 0x0002 = some .regMrw := by decide
theorem test_decode_regFgColor : decodeTableWord 16 0x0063 = some .regFgColor := by decide

-- R111: the five operations that have a bus word or a descriptor too, by their numbers.
theorem test_decode_by_number_word : decodeTableWord 8 0b00000 = some (.wcmd 0) ∧ decodeTableWord 8 0b00001 = some (.wdat 0)
    ∧ decode .opid [0b00000, 0x12, 0x34] = .ok (.wcmd 0x1234) ∧ decode .opid [0b00001, 0x12, 0x34] = .ok (.wdat 0x1234) := by
  decide
theorem test_decode_by_number_request :
    decode .opid [0b00110, 0, 1, 0, 2, 0, 3, 0, 4, 0, 5] = .ok (.fillrect 1 2 3 4 5 [])
    ∧ decode .opid [0b00111, 0, 1, 0, 2, 0, 3, 0, 4, 0xF8, 0] = .ok (.blit 1 2 3 4 [0xF8, 0])
    ∧ decode .opid [0b01000, 0, 1, 0, 2, 0, 3, 0x41] = .ok (.textrun 1 2 3 [0x41]) := by decide
theorem test_opNumber : [Instr.wcmd 0, .wdat 0, .fillrect 0 0 0 0 0 [], .blit 0 0 1 1 [], .textrun 0 0 0 []].map opNumber
    = [some 0, some 1, some 6, some 7, some 8] := by decide
-- R245 (b): a producer that delivers too little is heard all the same (log entry 24).
theorem test_decode_submit_short :
    decode .opid [0b01111, 0, 0, 0, 9, 0, 0, 0, 0, 0, 0, 0, 0, 0, 0, 0, 0, 0, 7]
      = .ok (.submit 0 ⟨9, 0, 0, 0, 0, 0, 0, 7, []⟩) := by decide

-- R111, R106: unused numbers, unknown codes and must-be-zero fields are refused by name (V53).
theorem test_decode_refuses_unused : decode .opid [19] = .error (.unusedOpNumber 19) := by decide
theorem test_decode_refuses_reserved_bits : decode .bus [0x02, 0, 0] = .error .reservedBits := by decide
theorem test_decode_refuses_code :
    decodeReq ([0x00, 0x04] ++ List.replicate 14 0) = .error (.illegalRequestCode 4) := by decide
theorem test_decode_refuses_h5 :
    decodeRequest ⟨1, 0, 0, 1, 1, 1, 0, 2, [0, 0]⟩ = .error .mustBeZero := by decide

/-! ### Small states and what is seen of an outcome -/

/-- Attached with a screen of 4 by 2 and nothing under way (R39). -/
def attached : State :=
  { State.reset with dev := .attached, width := 4, height := 2, ctl := { powerOnCtl with winX1 := 3, winY1 := 1 } }

/-- The screen of the spec's vectors, 800 by 480. -/
def attached800 : State :=
  { attached with width := 800, height := 480, ctl := { powerOnCtl with winX1 := 799, winY1 := 479 } }

/-- Foreground agent 0 holds the gate of `s` and has done `n` micro-steps of `r`. -/
def held (r : Request) (n : Nat) (s : State) : State :=
  { s with gate := .heldFG 0, fgs := [⟨.running r, n⟩, ⟨.empty, 0⟩] }

/-- Foreground agent 0 of `s` has waited `t` for the gate with the request `r`. -/
def waits (r : Request) (t : Nat) (s : State) : State := { s with fgs := [⟨.waiting r t, 0⟩, ⟨.empty, 0⟩] }

/-- `IRQA` holds the gate of `s` and has done `n` micro-steps of a mirror cycle. -/
def mirrors (n : Nat) (s : State) : State :=
  { s with gate := .heldIRQ, mirror := .mirroring, handler := .cycle, irqSeqPc := n }

/-- The fill of P1, a blit, and the text run of V38. -/
def fill : Request := .fillrect 1 2 0 1 0xABCD 0
def bits : Request := .blit 1 0 2 2 [0, 1, 0, 2, 0, 3, 0, 4]
def text : Request := .textrun 0 0 0x07E0 [0x41, 0x42]

/-- A part of the next state. -/
def seen {α : Type} (f : State → α) : StepOutcome → Option α
  | .next s => some (f s)
  | _ => none

/-- The three tracking flags (R24). -/
def flags (s : State) : List Bool := [s.ctl.winValid, s.ctl.curValid, s.ctl.writeArmed]

/-- The recorded window. -/
def window (s : State) : List Half := [s.ctl.winX0, s.ctl.winX1, s.ctl.winY0, s.ctl.winY1]

/-- The trace as 17-bit bus words (R91). -/
def words (s : State) : List (BitVec 17) :=
  s.trace.map fun w => (match w.sel with | .cmd => 0#1 | .dat => 1#1) ++ w.value

/-- `FULL4x2` and `CUR00` of 95_test_vectors.md as bus words. -/
def full4x2 : List (BitVec 17) :=
  [0x00030, 0x10000, 0x00031, 0x10000, 0x00034, 0x10003, 0x00035, 0x10000,
   0x00032, 0x10000, 0x00033, 0x10000, 0x00036, 0x10001, 0x00037, 0x10000]
def cur00 : List (BitVec 17) :=
  [0x00046, 0x10000, 0x00047, 0x10000, 0x00048, 0x10000, 0x00049, 0x10000]

/-! ### BusChannel and ControllerState -/

-- V12, V14: any address is delivered; `WCMD REG_MRW` leaves `write_armed` alone.
theorem test_wcmd_any : seen (fun t => (words t, t.ctl.sel, flags t)) (exec (.wcmd 0xFFFF) (held text 0 attached))
    = some ([0x0FFFF], 0xFFFF, [false, false, false]) := by decide
theorem test_wcmd_mrw_does_not_arm : seen flags (exec (.wcmd 0x0002) (held text 0 attached))
    = some [false, false, false] := by decide
-- V13, V15: a pixel word makes the cursor untrusted.
theorem test_wdat : seen (fun t => (words t, t.ctl.shd)) (exec (.wdat 0xFFFF) (held text 0 attached))
    = some ([0x1FFFF], 0xFFFF) := by decide
theorem test_wdat_pixel : seen flags (exec (.wdat 0x1234) { held text 0 attached with
    ctl := { attached.ctl with writeArmed := true, curValid := true } }) = some [false, false, true] := by decide
-- V16: the shadow, whatever is selected; no transaction.
theorem test_rdat : seen (fun t => (t.rdatValue, t.trace)) (exec .rdat { held text 0 attached with
    ctl := { attached.ctl with sel := 0x31, selValid := true, shd := 5, shdValid := true } }) = some (5, []) := by decide
-- V18: a faulted `WDAT` leaves the shadow.
theorem test_wdat_fault : seen (fun t => (t.ctl.shd, t.trace, t.unusable, slotOf t 0)) (exec (.wdat 7)
    { held text 0 attached with busPlan := some 0, ctl := { attached.ctl with shd := 5, shdValid := true } })
    = some (5, [], true, some (.done .busFault)) := by decide
-- V20 to V22.
theorem test_setcur : seen words (exec (.setcur 10 10) (held text 0 attached)) = some
    [0x00046, 0x1000A, 0x00047, 0x10000, 0x00048, 0x1000A, 0x00049, 0x10000] := by decide
theorem test_setcur_high_bytes : seen words (exec (.setcur 0xFFFF 0x0100) (held text 0 attached)) = some
    [0x00046, 0x100FF, 0x00047, 0x100FF, 0x00048, 0x10000, 0x00049, 0x10001] := by decide
-- V24: arguments x0, x1, y0, y1; addresses 30, 31, 34, 35, 32, 33, 36, 37.
theorem test_setwin : seen words (exec (.setwin 0x0123 0x0234 0x0045 0x0156) (held text 0 attached)) = some
    [0x00030, 0x10023, 0x00031, 0x10001, 0x00034, 0x10034, 0x00035, 0x10002,
     0x00032, 0x10045, 0x00033, 0x10000, 0x00036, 0x10056, 0x00037, 0x10001] := by decide
-- V27: the flags after `SETWIN`.
theorem test_setwin_flags : seen (fun t => (flags t, window t)) (exec (.setwin 0 3 0 1) { held text 0 attached with
    ctl := { attached.ctl with curValid := true, writeArmed := true } })
    = some ([true, false, false], [0, 3, 0, 1]) := by decide
-- V26.
theorem test_beginwr : seen (fun t => (words t, flags t)) (exec .beginwr (held text 0 attached))
    = some ([0x00002], [false, false, true]) := by decide
-- V28: a fault at micro-step 3 of a `SETCUR`.
theorem test_setcur_fault : seen (fun t => (words t, t.ctl.curX, t.ctl.sel, t.ctl.shd, flags t))
    (exec (.setcur 10 10) { held text 0 attached with
      busPlan := some 3, ctl := { attached.ctl with curValid := true } })
    = some ([0x00046, 0x1000A, 0x00047], 0, 0x47, 0x0A, [false, false, false]) := by decide

/-! ### The chip register rows (R96): each is `WCMD` of its address -/

theorem test_regWinX0L : seen words (exec .regWinX0L (held text 0 attached)) = some [0x00030] := by decide
theorem test_regWinX0H : seen words (exec .regWinX0H (held text 0 attached)) = some [0x00031] := by decide
theorem test_regWinY0L : seen words (exec .regWinY0L (held text 0 attached)) = some [0x00032] := by decide
theorem test_regWinY0H : seen words (exec .regWinY0H (held text 0 attached)) = some [0x00033] := by decide
theorem test_regWinX1L : seen words (exec .regWinX1L (held text 0 attached)) = some [0x00034] := by decide
theorem test_regWinX1H : seen words (exec .regWinX1H (held text 0 attached)) = some [0x00035] := by decide
theorem test_regWinY1L : seen words (exec .regWinY1L (held text 0 attached)) = some [0x00036] := by decide
theorem test_regWinY1H : seen words (exec .regWinY1H (held text 0 attached)) = some [0x00037] := by decide
theorem test_regCurXL : seen words (exec .regCurXL (held text 0 attached)) = some [0x00046] := by decide
theorem test_regCurXH : seen words (exec .regCurXH (held text 0 attached)) = some [0x00047] := by decide
theorem test_regCurYL : seen words (exec .regCurYL (held text 0 attached)) = some [0x00048] := by decide
theorem test_regCurYH : seen words (exec .regCurYH (held text 0 attached)) = some [0x00049] := by decide
theorem test_regMrw : seen words (exec .regMrw (held text 0 attached)) = some [0x00002] := by decide
theorem test_regFgColor : seen words (exec .regFgColor (held text 0 attached)) = some [0x00063] := by decide

/-! ### DrawingPrimitives -/

-- P1 step 2: the trace, and what the block records.
theorem test_fillrect_words : seen words (exec (.fillrect 1 2 0 1 0xABCD []) (held fill 0 attached)) = some
    ([0x00030, 0x10001, 0x00031, 0x10000, 0x00034, 0x10002, 0x00035, 0x10000,
      0x00032, 0x10000, 0x00033, 0x10000, 0x00036, 0x10001, 0x00037, 0x10000,
      0x00046, 0x10001, 0x00047, 0x10000, 0x00048, 0x10000, 0x00049, 0x10000,
      0x00002, 0x1ABCD, 0x1ABCD, 0x1ABCD, 0x1ABCD] ++ full4x2) := by decide
theorem test_fillrect_leaves : seen (fun t => (window t ++ [t.ctl.curX, t.ctl.curY, t.ctl.sel, t.ctl.shd], flags t,
      t.gate, t.fgs)) (exec (.fillrect 1 2 0 1 0xABCD []) (held fill 0 attached))
    = some ([0, 3, 0, 1, 1, 0, 0x37, 0], [true, false, false], .free, [⟨.done .ok, 45⟩, ⟨.empty, 0⟩]) := by decide
-- P2 step 1 and 3: the pixels of a blit in row-major order, high byte first.
theorem test_blit_pixels : seen (fun t => ((words t).drop 24).take 5)
    (exec (.blit 1 0 2 2 [0, 1, 0, 2, 0, 3, 0, 4]) (held bits 0 attached))
    = some [0x00002, 0x10001, 0x10002, 0x10003, 0x10004] := by decide
-- V34: without the restoring `SETFULL` the trace stops after the pixels and the window stays.
theorem test_blit_without_restore : seen (fun t => (t.trace.length, window t, (words t).drop 24))
    (exec (.blit 2 1 2 1 [0xF8, 0x00, 0x07, 0xE0]) { held (.blit 2 1 2 1 [0xF8, 0x00, 0x07, 0xE0]) 0 attached with
      cfg := { defaultParams with blitRestoreWindow := false } })
    = some (27, [2, 3, 1, 1], [0x00002, 0x1F800, 0x107E0]) := by decide
-- V38.
theorem test_textrun : seen (fun t => (words t, flags t, t.ctl.sel, t.ctl.shd))
    (exec (.textrun 0 0 0x07E0 [0x41, 0x42]) (held text 0 attached))
    = some ([0x00063, 0x107E0] ++ cur00 ++ [0x00002, 0x10041, 0x10042], [false, false, true], 2, 0x42) := by decide
-- V39: an empty payload.
theorem test_textrun_empty : seen (fun t => (t.trace.length, flags t, t.ctl.shd))
    (exec (.textrun 3 1 0xFFFF []) (held (.textrun 3 1 0xFFFF []) 0 attached))
    = some (11, [false, true, true], 0) := by decide
-- P1 under the reference chip model (R70): four cells hold the colour, the others are undefined.
theorem test_fillrect_on_the_chip : seen (fun t => (chipCell t.chip 1 0, chipCell t.chip 2 1, chipCell t.chip 0 0,
      chipCell t.chip 3 1)) (exec (.fillrect 1 2 0 1 0xABCD []) (held fill 0 attached))
    = some (some 0xABCD, some 0xABCD, none, none) := by decide

-- U7, U1, U10, U3: after a BusFault nothing is known of the chip; a cursor outside the window, a transaction during an
-- engine pass, and a write to a register that is none of the twelve leave its display undefined, and a transaction selects.
theorem test_fault_chip : seen (fun t => t.chip) (exec (.wcmd 0x46) { held text 0 attached with
    busPlan := some 0, chip := ⟨some 2, [(2, 7)], some ⟨0, 3, 0, 1⟩, some (0, 0), ⟨true, true, true, true⟩, [(0, 5)], false⟩ })
    = some unknownChip := by decide
theorem test_engine_chip : ∀ i ∈ [Instr.wcmd 0x02, .wdat 9], seen (fun t => (t.chip.csel, t.chip.window, t.chip.vram))
      (exec i { held text 0 attached with
        engineActive := true
        chip := ⟨some 0x02, [], some ⟨0, 3, 0, 1⟩, some (0, 0), ⟨true, true, true, true⟩, [(0, 5)], false⟩ })
    = some (some 0x02, some ⟨0, 3, 0, 1⟩, []) := by decide
-- Of the pixels that end a burst begun during the pass nothing is known either (R256).
theorem test_engine_burst : ∀ b ∈ [true, false], seen (fun t => t.chip.vram) (exec (.wdat 9) { held text 0 attached with
    chip := ⟨some defaultParams.regMrw, [], some ⟨0, 3, 0, 1⟩, some (0, 0), ⟨true, true, true, true⟩, [(0, 5)], b⟩ })
    = some (if b then [] else [(0, 9)]) := by decide
-- The last word of a cursor-set sequence puts the pointer at (3, 1), inside a window and outside another.
theorem test_cursor_outside : ∀ y ∈ [1, 0], seen (fun t => (t.chip.pointer, t.chip.vram)) (exec (.wdat 0)
      { held text 0 attached with chip := ⟨some 0x49, [(0x46, 3), (0x47, 0), (0x48, 1)], some ⟨0, 3, 0, y⟩, none,
        ⟨true, true, true, false⟩, [(0, 5)], false⟩ })
    = some (some (3, 1), if y = 1 then [(0, 5)] else []) := by decide
theorem test_unknown_register : seen (fun t => (t.chip.vram, t.chip.creg)) (exec (.wdat 9) { held text 0 attached with
    chip := ⟨some 0x50, [], some ⟨0, 3, 0, 1⟩, some (0, 0), ⟨true, true, true, true⟩, [(0, 5)], false⟩ })
    = some ([], [(0x50, 9)]) := by decide

/-! ### RequestArbiter -/

-- V32, V33, V35, V40 on the screen of 800 by 480: SizeMismatch without a transaction.
theorem test_submit_fillrect_geometry : ∀ d ∈ ([⟨2, 20, 10, 10, 20, 0, 0, 0, []⟩, ⟨2, 10, 20, 20, 10, 0, 0, 0, []⟩,
    ⟨2, 0, 800, 0, 0, 0, 0, 0, []⟩, ⟨2, 0, 0, 0, 480, 0, 0, 0, []⟩, ⟨2, 0xFFFF, 0xFFFF, 0, 0, 0, 0, 0, []⟩,
    ⟨2, 0, 0, 0, 0, 0xF800, 0, 2, [0, 0]⟩] : List Descriptor),
    seen (fun t => (slotOf t 0, t.trace)) (exec (.submit 0 d) attached800)
      = some (some (.done .sizeMismatch), []) := by decide
theorem test_submit_blit_geometry : ∀ d ∈ ([⟨1, 0, 0, 2, 2, 0, 0, 7, List.replicate 7 0⟩,
    ⟨1, 0, 0, 2, 2, 0, 0, 10, List.replicate 10 0⟩, ⟨1, 0, 0, 0, 5, 0, 0, 0, []⟩, ⟨1, 0, 0, 5, 0, 0, 0, 0, []⟩,
    ⟨1, 799, 0, 2, 1, 0, 0, 4, List.replicate 4 0⟩, ⟨1, 0, 479, 1, 2, 0, 0, 4, List.replicate 4 0⟩,
    ⟨1, 0xFFFF, 0, 2, 1, 0, 0, 4, List.replicate 4 0⟩] : List Descriptor),
    seen (fun t => slotOf t 0) (exec (.submit 0 d) attached800) = some (some (.done .sizeMismatch)) := by decide
-- V52, V53: the order of the checks, and the illegal descriptors.
theorem test_submit_order : seen (fun t => slotOf t 0) (exec (.submit 0 ⟨4, 0, 0, 0, 0, 0, 0, 0, []⟩)
      { attached with unusable := true }) = some (some (.done .illegal))
    ∧ seen (fun t => slotOf t 0) (exec (.submit 0 ⟨1, 0, 0, 2, 2, 0, 0, 7, List.replicate 7 0⟩)
      { attached with unusable := true }) = some (some (.done .busFault))
    ∧ seen (fun t => slotOf t 0) (exec (.submit 0 ⟨1, 0, 0, 2, 2, 0, 0, 7, List.replicate 7 0⟩)
      { attached with gate := .heldIRQ }) = some (some (.done .sizeMismatch)) := by decide
theorem test_submit_illegal : ∀ d ∈ ([⟨0, 0, 0, 0, 0, 0, 0, 0, []⟩, ⟨0xFFFF, 0, 0, 0, 0, 0, 0, 0, []⟩,
    ⟨1, 0, 0, 1, 1, 1, 0, 2, [0, 0]⟩, ⟨3, 0, 0, 0x07E0, 1, 0, 0, 0, []⟩] : List Descriptor),
    seen (fun t => slotOf t 0) (exec (.submit 0 d) attached) = some (some (.done .illegal)) := by decide
-- V50: the bounded wait.
theorem test_acq_times_out : seen (fun t => slotOf t 0) (exec (.acq 0) { waits text 1 attached with gate := .heldIRQ })
    = some (some (.done .arbitrationTimeout)) := by decide
theorem test_acq : seen (fun t => (t.gate, slotOf t 0)) (exec (.acq 0) (waits text 0 attached))
    = some (.heldFG 0, some (.running text)) := by decide
-- V6: the gate busy, no cycle and no count; the gate free, the cycle begins.
theorem test_tryacq_busy : seen (fun t => (t.gate, t.mirror, t.mirrorCount)) (exec .tryacq
    { held text 3 attached with handler := .tryAcq, mirrorCount := 5 }) = some (.heldFG 0, .idle, 5) := by decide
theorem test_tryacq_free : seen (fun t => (t.gate, t.mirror)) (exec .tryacq { attached with handler := .tryAcq })
    = some (.heldIRQ, .mirroring) := by decide
theorem test_rel : seen (fun t => (t.gate, slotOf t 0)) (exec .rel (held text 13 attached))
    = some (.free, some (.done .ok)) := by decide
theorem test_rel_not_yet : exec .rel (held text 12 attached) = .fault .notComplete := by rfl

/-! ### MirrorPipeline -/

/-- The FrameBuffer of P1, at the base 0. -/
def frame : Memory := (List.range 16).map fun i => (i, BitVec.ofNat 8 i)

-- V47, V46.
theorem test_irq_latched : seen (fun t => t.irqPending) (exec .irq attached) = some true := by decide
theorem test_irq_detached : seen (fun t => t.irqPending) (exec .irq State.reset) = some false := by decide
-- P1 step 3, V41: the 25 transactions, the copy and the counts.
theorem test_mirror : seen (fun t => (words t, t.events, t.sb, t.irqSeqPc)) (exec .mirror
    (mirrors 0 { attached with fb := frame }))
    = some (full4x2 ++ cur00 ++ [0x00002], [.engineStart], frame, 42) := by decide
theorem test_mirror_leaves : seen (fun t => (flags t ++ [t.engineActive], window t ++ [t.ctl.sel], t.mirrorCount,
      t.gate, t.mirror)) (exec .mirror (mirrors 0 { attached with fb := frame }))
    = some ([true, true, true, true], [0, 3, 0, 1, 2], 1, .free, .idle) := by decide
-- V71: the 18th transaction of the cycle faults.
theorem test_mirror_fault : seen (fun t => (words t, t.sb, flags t ++ [t.unusable, t.events.isEmpty], t.faultCount))
    (exec .mirror (mirrors 0 { attached with fb := frame, busPlan := some 17 }))
    = some (full4x2 ++ [0x00046], frame, [false, false, false, true, true], 1) := by decide
-- V42: the copy, and the byte an external writer changes before it is read.
theorem test_copyframe : seen (fun t => (t.sb.map Prod.snd, t.trace)) (exec .copyframe (mirrors 0 { attached with
    width := 2, fb := [(0, 1), (1, 2), (2, 3), (3, 4), (4, 5), (5, 6), (6, 7), (7, 8)] }))
    = some ([1, 2, 3, 4, 5, 6, 7, 8], []) := by decide
theorem test_copyframe_base : seen (fun t => t.sb) (exec .copyframe (mirrors 0 { attached with
    width := 1, height := 1, fbBase := 0x1000, fb := [(0, 9), (0x1000, 1), (0x1001, 2)] }))
    = some [(0, 1), (1, 2)] := by decide
-- V7: the classification.
theorem test_status_classes :
    [0x00#32, 0x04#32, 0x20#32, 0x24#32, 0x01#32, 0x02#32, 0x40#32, 0xFFFFFFDB#32, 0xFFFFFFFF#32, 0x80000004#32].map
      syncLoss = [false, true, true, true, false, false, false, false, true, true] := by decide
-- V43, V44: a SyncLoss is counted modulo 2^32, and nothing else happens; V45: on an unusable device nothing.
theorem test_sync_loss : irqaStep { attached with
      handler := .decide 4, faultCount := 0xFFFFFFFF, mirrorCount := 3, engineActive := true }
    = { attached with faultCount := 0, mirrorCount := 3, engineActive := true } := by decide
theorem test_unusable_handler : irqaStep { attached with handler := .decide 4, unusable := true }
    = { attached with unusable := true } := by decide

/-! ### Lifecycle -/

-- V1, V60: the state of R39; V61: refused arguments; V62, V63: the ends of the ranges.
theorem test_attach : seen (fun t => (window t, flags t, t.dev, frameSize t, t.trace)) (exec
    (.attach 800 480 0x80000000 768000) State.reset)
    = some ([0, 799, 0, 479], [false, false, false], .attached, 768000, []) := by decide
theorem test_attach_refuses : seen (fun t => t.dev) (exec (.attach 0 480 0 0) State.reset) = some .detached
    ∧ seen (fun t => t.dev) (exec (.attach 800 65537 0 104859200) State.reset) = some .detached
    ∧ seen (fun t => t.dev) (exec (.attach 800 480 0 767999) State.reset) = some .detached
    ∧ seen (fun t => (window t, t.dev)) (exec (.attach 65536 65536 0 8589934592) State.reset)
      = some ([0, 65535, 0, 65535], .attached) := by decide

-- P4 steps 4 and 5, R241: the chip is unknown again.
theorem test_detach_attach_chip : seen (fun t => t.chip) (exec .detach { attached with
      chip := ⟨some 2, [], some ⟨0, 3, 0, 1⟩, some (0, 0), ⟨true, true, true, true⟩, [(0, 5)], true⟩ }) = some unknownChip
    ∧ seen (fun t => t.chip) (exec (.attach 1 1 0 2) { State.reset with
      chip := ⟨some 2, [], some ⟨0, 3, 0, 1⟩, some (0, 0), ⟨true, true, true, true⟩, [(0, 5)], true⟩ }) = some unknownChip := by
  decide

-- R196, U8: after `INITSEQ` the chip's window is not known, whatever it was.
theorem test_initseq_chip : seen (fun t => t.chip.window) (exec .initseq { attached with
    initDue := true, chip := ⟨some 2, [], some ⟨0, 3, 0, 1⟩, some (0, 0), ⟨true, true, true, true⟩, [],
      false⟩ }) = some none := by decide

/-- The made-up table of V64. -/
def table : Params := { defaultParams with initTable := [⟨0x0001, 0x0000, 0⟩, ⟨0x0088, 0x000B, 1⟩] }

-- V64.
theorem test_initseq : seen (fun t => (words t, t.ctl.sel, t.ctl.shd, t.ctl.selValid && t.ctl.shdValid, flags t))
    (exec .initseq { attached with initDue := true, cfg := table })
    = some ([0x00001, 0x10000, 0x00088, 0x1000B], 0x88, 0x0B, true, [false, false, false]) := by decide
-- V65, V66.
theorem test_detach_waits : seen (fun t => (t.dev, t.detachPending)) (exec .detach (held text 3 attached))
    = some (.attached, true) := by decide
theorem test_detach : seen (fun t => (t.dev, slotOf t 0)) (exec .detach (waits text 0 attached))
    = some (.detached, some (.done .busFault)) := by decide

/-! ### A witness for every statement that has hypotheses

Each theorem gives, clause by clause and at the ends of the ranges, a state and operands that meet the hypotheses of the
statement it is named after. -/

theorem delivers_of_none {s : State} (n : Nat) (h : s.busPlan = none) : busDelivers s n := fun m hm => by
  rw [h] at hm; cases hm

theorem delivers_of_some {s : State} {n m : Nat} (h : s.busPlan = some m) (hn : n ≤ m) : busDelivers s n :=
  fun k hk => by rw [h] at hk; cases hk; exact hn

/-- The state with the bus's answers as given. -/
def bus (p : Option Nat) (s : State) : State := { s with busPlan := p }

theorem witness_DecodeEncodeRoundTrip : Instr.wf (.acq 65535) = true
    ∧ Instr.wf (.attach (2 ^ 32 - 1) (2 ^ 32 - 1) (2 ^ 64 - 1) (2 ^ 64 - 1)) = true
    ∧ Instr.wf (.submit 65535 ⟨1, 0, 0, 1, 1, 0, 0, 2, [0xF8, 0]⟩) = true
    ∧ Instr.wf (.blit 0 0 1 1 [0xF8, 0]) = true := by decide

theorem witness_StepRunsDecoded : ∃ s : State, s.input = .op .bus [0, 0, 0x46] :: []
    ∧ decode .bus [0, 0, 0x46] = .ok (.wcmd 0x46) := ⟨{ held text 0 attached with input := _ }, rfl, by decide⟩

/-- One transaction left, and a holder: `WcmdDelivers`, `WdatDelivers`, `BeginwrCompletes`. -/
theorem witness_WcmdDelivers : (bus (some 1) (held text 0 attached)).dev = .attached
    ∧ (bus (some 1) (held text 0 attached)).gate ≠ .free ∧ busDelivers (bus (some 1) (held text 0 attached)) 1 :=
  ⟨rfl, by decide, delivers_of_some rfl (by decide)⟩

theorem witness_WdatDelivers : (mirrors 0 attached).dev = .attached ∧ (mirrors 0 attached).gate ≠ .free
    ∧ busDelivers (mirrors 0 attached) 1 := ⟨rfl, by decide, delivers_of_none 1 rfl⟩

theorem witness_BeginwrCompletes : (held bits 24 attached).dev = .attached ∧ (held bits 24 attached).gate ≠ .free
    ∧ busDelivers (held bits 24 attached) 1 := ⟨rfl, by decide, delivers_of_none 1 rfl⟩

theorem witness_RdatReturnsShadow : (held text 0 attached).dev = .attached ∧ (held text 0 attached).gate ≠ .free
    ∧ (held text 0 attached).ctl.shdValid = false
    ∧ (mirrors 0 { attached with ctl := { attached.ctl with shdValid := true } }).gate ≠ .free
    ∧ (mirrors 0 { attached with ctl := { attached.ctl with shdValid := true } }).ctl.shdValid = true := by decide

theorem witness_ChipRegistersSelect : (Instr.regFgColor, attached.cfg.regFgColor) ∈
      [(Instr.regWinX0L, attached.cfg.regWinX0L), (.regFgColor, attached.cfg.regFgColor)]
    ∧ (bus (some 1) (held text 0 attached)).dev = .attached ∧ (bus (some 1) (held text 0 attached)).gate ≠ .free
    ∧ busDelivers (bus (some 1) (held text 0 attached)) 1 :=
  ⟨by decide, rfl, by decide, delivers_of_some rfl (by decide)⟩

theorem witness_OnlyTheHolderUsesTheBus_fault : attached.gate = .free ∧ attached.dev = .attached
    ∧ State.reset.gate = .free ∧ State.reset.dev = .detached := by decide

/-- The same stop as a test, and two more: an operation used where the spec has no step (log entry 16). -/
theorem test_not_holder : exec (.wcmd 0x46) attached = .fault .notHolder
    ∧ exec .mirror attached = .fault .notMirroring ∧ exec .initseq attached = .fault .notAttaching := ⟨rfl, rfl, rfl⟩

/-- Attached, with the gate free and a run over. -/
theorem witness_ResetAndQuiescentStatesStay :
    quiescent { attached with fgs := [⟨.done .ok, 45⟩, ⟨.empty, 0⟩] } := by
  refine ⟨rfl, rfl, rfl, rfl, rfl, rfl, rfl, fun k v h => ?_⟩
  match k with
  | 0 => cases h; exact .inr ⟨_, rfl⟩
  | 1 => cases h; exact .inl rfl
  | k + 2 => cases h

theorem witness_SetcurCompletes : (bus (some 8) (held text 0 attached)).dev = .attached
    ∧ (bus (some 8) (held text 0 attached)).gate ≠ .free ∧ paramsWf (bus (some 8) (held text 0 attached)).cfg = true
    ∧ busDelivers (bus (some 8) (held text 0 attached)) 8 :=
  ⟨rfl, by decide, by decide, delivers_of_some rfl (by decide)⟩

theorem witness_SetwinCompletes : (bus (some 16) (mirrors 0 attached)).dev = .attached
    ∧ (bus (some 16) (mirrors 0 attached)).gate ≠ .free ∧ paramsWf (bus (some 16) (mirrors 0 attached)).cfg = true
    ∧ busDelivers (bus (some 16) (mirrors 0 attached)) 16 :=
  ⟨rfl, by decide, by decide, delivers_of_some rfl (by decide)⟩

/-- The last word of a `SETCUR`, for a foreground holder and for `IRQA`. -/
theorem witness_SequenceFaultKeepsRegisters_setcur : ∀ s ∈ [held text 0 attached, mirrors 16 attached],
    (bus (some 7) s).dev = .attached ∧ (bus (some 7) s).gate ≠ .free ∧ (bus (some 7) s).busPlan = some 7
    ∧ 7 < (cursorWords 10 10).length := by decide

/-- The first and the last word of a `SETWIN`, for a foreground holder and for `IRQA`. -/
theorem witness_SequenceFaultKeepsRegisters_setwin : ∀ s ∈ [held text 0 attached, mirrors 0 attached], ∀ n ∈ [0, 15],
    (bus (some n) s).dev = .attached ∧ (bus (some n) s).gate ≠ .free ∧ (bus (some n) s).busPlan = some n
    ∧ n < (windowWords (bus (some n) s).cfg 0 3 0 1).length := by decide

theorem witness_ChipFollowsWindowAndCursor : (bus (some 24) (held text 0 attached)).dev = .attached
    ∧ (bus (some 24) (held text 0 attached)).gate ≠ .free
    ∧ paramsWf (bus (some 24) (held text 0 attached)).cfg = true
    ∧ busDelivers (bus (some 24) (held text 0 attached)) 24 :=
  ⟨rfl, by decide, by decide, delivers_of_some rfl (by decide)⟩

/-- For either transaction. -/
theorem witness_BusFaultInForeground : (bus (some 0) (held text 0 attached)).dev = .attached
    ∧ (bus (some 0) (held text 0 attached)).gate = .heldFG 0 ∧ (bus (some 0) (held text 0 attached)).busPlan = some 0 := by
  decide

theorem witness_BusFaultInMirror : (bus (some 0) (mirrors 16 attached)).dev = .attached
    ∧ (bus (some 0) (mirrors 16 attached)).gate = .heldIRQ ∧ (bus (some 0) (mirrors 16 attached)).busPlan = some 0 := by
  decide

theorem witness_ForegroundFaultIsPrecise : ∀ r ∈ [fill, bits, text], ∀ n ∈ [0, 12],
    (bus (some n) (held r 0 attached)).dev = .attached ∧ (bus (some n) (held r 0 attached)).gate = .heldFG 0
    ∧ (bus (some n) (held r 0 attached)).fgs[0]? = some ⟨.running r, 0⟩
    ∧ validRequest attached.width attached.height r = true ∧ (bus (some n) (held r 0 attached)).busPlan = some n
    ∧ n < (requestWords attached.cfg attached.width attached.height r).length := by decide

theorem witness_MirrorFaultIsPrecise : ∀ n ∈ [0, 24],
    (bus (some n) (mirrors 0 attached)).dev = .attached ∧ (bus (some n) (mirrors 0 attached)).gate = .heldIRQ
    ∧ (bus (some n) (mirrors 0 attached)).mirror = .mirroring ∧ (bus (some n) (mirrors 0 attached)).irqSeqPc = 0
    ∧ (bus (some n) (mirrors 0 attached)).busPlan = some n ∧ n < 25 := by decide

/-- A decodable descriptor of each code on a detached and on an unusable device. -/
theorem witness_SubmitRefusals_lost : ∀ d ∈ ([⟨1, 0, 0, 1, 1, 0, 0, 2, [0, 0]⟩, ⟨2, 0, 0, 0, 0, 0, 0, 0, []⟩,
      ⟨3, 0, 0, 0, 0, 0, 0, 0, []⟩] : List Descriptor),
    ((d.h0 = 0x0001 ∧ d.h5 = 0) ∨ d.h0 = 0x0002 ∨ (d.h0 = 0x0003 ∧ d.h4 = 0 ∧ d.h5 = 0))
    ∧ slotOf State.reset 0 = some .empty ∧ State.reset.dev = .detached
    ∧ slotOf { attached with unusable := true } 1 = some .empty := by decide

theorem witness_SubmitRefusals_illegal : ∀ d ∈ ([⟨0, 0, 0, 0, 0, 0, 0, 0, []⟩, ⟨4, 0, 0, 0, 0, 0, 0, 0, []⟩,
      ⟨1, 0, 0, 1, 1, 1, 0, 0, []⟩, ⟨3, 0, 0, 0, 1, 0, 0, 0, []⟩, ⟨3, 0, 0, 0, 0, 1, 0, 0, []⟩] : List Descriptor),
    ¬ ((d.h0 = 0x0001 ∧ d.h5 = 0) ∨ d.h0 = 0x0002 ∨ (d.h0 = 0x0003 ∧ d.h4 = 0 ∧ d.h5 = 0))
    ∧ slotOf attached 0 = some .empty := by decide

/-- `SubmitFillrect`, its descriptor at the last valid column and at the first that is not, and both answers. -/
theorem witness_SubmitFillrect : slotOf attached 0 = some .empty ∧ attached.dev = .attached ∧ attached.unusable = false
    ∧ seen (fun t => slotOf t 0) (exec (.submit 0 ⟨2, 3, 3, 1, 1, 9, 0, 0, []⟩) attached)
      = some (some (.waiting (.fillrect 3 3 1 1 9 0) 0))
    ∧ seen (fun t => slotOf t 0) (exec (.submit 0 ⟨2, 3, 4, 1, 1, 9, 0, 0, []⟩) attached)
      = some (some (.done .sizeMismatch)) := by decide

theorem witness_SubmitBlit : slotOf attached 1 = some .empty ∧ attached.dev = .attached ∧ attached.unusable = false
    ∧ Descriptor.wf ⟨1, 3, 1, 1, 1, 0, 0, 2, [7, 9]⟩ = true
    ∧ seen (fun t => slotOf t 1) (exec (.submit 1 ⟨1, 3, 1, 1, 1, 0, 0, 2, [7, 9]⟩) attached)
      = some (some (.waiting (.blit 3 1 1 1 [7, 9]) 0))
    ∧ seen (fun t => slotOf t 1) (exec (.submit 1 ⟨1, 4, 1, 1, 1, 0, 0, 2, [7, 9]⟩) attached)
      = some (some (.done .sizeMismatch)) := by decide

theorem witness_SubmitTextrun : slotOf attached 0 = some .empty ∧ attached.dev = .attached ∧ attached.unusable = false
    ∧ Descriptor.wf ⟨3, 3, 1, 5, 0, 0, 0, 1, [0x41]⟩ = true
    ∧ seen (fun t => slotOf t 0) (exec (.submit 0 ⟨3, 3, 1, 5, 0, 0, 0, 1, [0x41]⟩) attached)
      = some (some (.waiting (.textrun 3 1 5 [0x41]) 0))
    ∧ seen (fun t => slotOf t 0) (exec (.submit 0 ⟨3, 3, 2, 5, 0, 0, 0, 1, [0x41]⟩) attached)
      = some (some (.done .sizeMismatch)) := by decide

theorem witness_AcqTakesFreeGate : slotOf (waits fill 0 attached) 0 = some (.waiting fill 0)
    ∧ (waits fill 0 attached).dev = .attached ∧ (waits fill 0 attached).unusable = false
    ∧ (waits fill 0 attached).gate = .free := by decide

/-- Before and at the end of the bounded wait. -/
theorem witness_AcqWaitsOrTimesOut : ∀ t ∈ [0, 1],
    slotOf { waits fill t attached with gate := .heldIRQ } 0 = some (.waiting fill t)
    ∧ { waits fill t attached with gate := .heldIRQ }.dev = .attached
    ∧ { waits fill t attached with gate := .heldIRQ }.unusable = false
    ∧ { waits fill t attached with gate := .heldIRQ }.gate ≠ .free
    ∧ (attached.cfg.arbTimeout ≤ t ↔ t = 1) := by decide

/-- The clause about a `Tick`: who waits, and who does not. -/
theorem witness_AcqWaitsOrTimesOut_tick : oneTickLater [⟨.waiting fill 0, 4⟩, ⟨.running text, 5⟩, ⟨.done .ok, 6⟩]
    = [⟨.waiting fill 1, 4⟩, ⟨.running text, 5⟩, ⟨.done .ok, 6⟩] := by decide

/-- The gate free, and the gate held. -/
theorem witness_TryacqAcquiresOrSkips : ∀ s ∈ [attached, held text 3 attached],
    { s with handler := .tryAcq }.dev = .attached ∧ { s with handler := .tryAcq }.handler = .tryAcq
    ∧ { s with handler := .tryAcq }.unusable = false ∧ { s with handler := .tryAcq }.mirror = .idle := by decide

theorem witness_RelCompletes_fg : (held text 13 attached).dev = .attached ∧ (held text 13 attached).gate = .heldFG 0
    ∧ (held text 13 attached).fgs[0]?
      = some ⟨.running text, (requestWords attached.cfg attached.width attached.height text).length⟩
    ∧ ∀ x0 y0 w h bytes, text = .blit x0 y0 w h bytes → bytes.length = w.toNat * h.toNat * 2 :=
  ⟨rfl, rfl, by decide, fun _ _ _ _ _ h => by cases h⟩

theorem witness_RelCompletes_irq : (mirrors 42 attached).dev = .attached ∧ (mirrors 42 attached).gate = .heldIRQ
    ∧ (mirrors 42 attached).mirror = .mirroring
    ∧ (mirrors 42 attached).irqSeqPc = (mirrors 42 attached).width * (mirrors 42 attached).height * 2 + 26 := by decide

/-- The last column and row of the screen, one pixel, and exactly as many answers as it needs. -/
theorem witness_FillrectCompletes : (bus (some 42) (held (.fillrect 3 3 1 1 9 0) 0 attached)).dev = .attached
    ∧ (bus (some 42) (held (.fillrect 3 3 1 1 9 0) 0 attached)).gate = .heldFG 0
    ∧ (bus (some 42) (held (.fillrect 3 3 1 1 9 0) 0 attached)).fgs[0]? = some ⟨.running (.fillrect 3 3 1 1 9 0), 0⟩
    ∧ (3#16).toNat ≤ (3#16).toNat ∧ (3#16).toNat ≤ attached.width - 1 ∧ (1#16).toNat ≤ (1#16).toNat
    ∧ (1#16).toNat ≤ attached.height - 1 ∧ paramsWf attached.cfg = true
    ∧ busDelivers (bus (some 42) (held (.fillrect 3 3 1 1 9 0) 0 attached)) (41 + fillPixels 3 3 1 1) :=
  ⟨rfl, rfl, rfl, by decide, by decide, by decide, by decide, by decide, delivers_of_some rfl (by decide)⟩

/-- `bits` held where blits restore the window or do not. -/
def heldBits (b : Bool) : State := { held bits 0 attached with cfg := { defaultParams with blitRestoreWindow := b } }

/-- With and without the restoring window, a blit that ends in the last row. -/
theorem witness_BlitCompletes (b : Bool) : (heldBits b).dev = .attached ∧ (heldBits b).gate = .heldFG 0
    ∧ (heldBits b).fgs[0]? = some ⟨.running (.blit 1 0 2 2 [0, 1, 0, 2, 0, 3, 0, 4]), 0⟩
    ∧ [0, 1, 0, 2, 0, 3, 0, 4].length = (2#16).toNat * (2#16).toNat * 2 ∧ 1 ≤ (2#16).toNat
    ∧ (1#16).toNat + (2#16).toNat - 1 ≤ (heldBits b).width - 1 ∧ (0#16).toNat + (2#16).toNat - 1 ≤ (heldBits b).height - 1
    ∧ paramsWf (heldBits b).cfg = true
    ∧ busDelivers (heldBits b) (blitWords (heldBits b).cfg 4 2 1 0 2 2 [0, 1, 0, 2, 0, 3, 0, 4]).length :=
  ⟨rfl, rfl, rfl, by decide, by decide, Nat.le_succ 2, Nat.le_refl 1, by cases b <;> decide, delivers_of_none _ rfl⟩

/-- Any payload, the empty one too, at the last column and row. -/
theorem witness_TextrunCompletes (bs : List Byte) : (held (.textrun 3 1 5 bs) 0 attached).dev = .attached
    ∧ (held (.textrun 3 1 5 bs) 0 attached).gate = .heldFG 0
    ∧ (held (.textrun 3 1 5 bs) 0 attached).fgs[0]? = some ⟨.running (.textrun 3 1 5 bs), 0⟩
    ∧ (3#16).toNat ≤ attached.width - 1 ∧ (1#16).toNat ≤ attached.height - 1 ∧ paramsWf attached.cfg = true
    ∧ busDelivers (held (.textrun 3 1 5 bs) 0 attached) (textWordsOf attached.cfg 3 1 5 bs).length :=
  ⟨rfl, rfl, rfl, by decide, by decide, by decide, delivers_of_none _ rfl⟩

theorem witness_InvalidDrawingSendsNothing :
    ∀ r ∈ [Request.fillrect 2 1 0 0 9 0, .fillrect 0 0 0 0 9 2, .blit 0 0 1 1 [7], .textrun 4 0 5 []],
    (held r 0 attached).gate = .heldFG 0 ∧ slotOf (held r 0 attached) 0 = some (.running r)
    ∧ validRequest attached.width attached.height r = false := by decide

theorem witness_FillrectPaintsRectangle : ∃ t, (held fill 0 attached).gate = .heldFG 0
    ∧ (held fill 0 attached).fgs[0]? = some ⟨.running (.fillrect 1 2 0 1 0xABCD 0), 0⟩
    ∧ (1#16).toNat ≤ (2#16).toNat ∧ (2#16).toNat ≤ attached.width - 1 ∧ (0#16).toNat ≤ (1#16).toNat
    ∧ (1#16).toNat ≤ attached.height - 1 ∧ paramsWf attached.cfg = true ∧ (held fill 0 attached).engineActive = false
    ∧ busDelivers (held fill 0 attached) (41 + fillPixels 1 2 0 1)
    ∧ exec (.fillrect 1 2 0 1 0xABCD []) (held fill 0 attached) = .next t :=
  ⟨_, rfl, rfl, by decide, by decide, by decide, by decide, by decide, rfl, delivers_of_none _ rfl, rfl⟩

/-- Beside what `witness_BlitCompletes true` gives. -/
theorem witness_BlitPaintsRectangle : ∃ t, (heldBits true).gate = .heldFG 0 ∧ (heldBits true).engineActive = false
    ∧ screenInRange (heldBits true)
    ∧ exec (.blit 1 0 2 2 [0, 1, 0, 2, 0, 3, 0, 4]) (heldBits true) = .next t :=
  ⟨_, rfl, rfl, by unfold screenInRange; decide, rfl⟩

/-- The gate held by agent 0 with `n` micro-steps of `r` done, a window and a cursor trusted. -/
def readyAt (r : Request) (n : Nat) : State :=
  { held r n attached with ctl := { attached.ctl with winValid := true, curValid := true } }

theorem witness_CursorSetBeforeBurst : paramsWf defaultParams = true
    ∧ ∀ x y c bytes, text = .textrun x y c bytes →
      ∀ e ∈ colorWrites defaultParams.fgColorSeq c, e.1 ≠ defaultParams.regMrw :=
  ⟨by decide, fun _ _ _ _ _ => by simp [colorWrites, defaultParams]⟩

/-- A fill, and a text run, about to execute `BEGINWR`; the flags are those a delivered list has left. -/
theorem witness_CursorSetBeforeBurst_holder : ∀ e ∈ [(fill, 24, true), (text, 10, false)],
    holderRest (readyAt e.1 e.2.1) = some (beginwrSteps defaultParams ++ ((requestSteps defaultParams 4 2 e.1).drop (e.2.1 + 1)))
    ∧ setsWindow (readyAt e.1 e.2.1) = e.2.2 := by decide

theorem witness_HandlerReadsAndAcknowledges : { attached with irqPending := true, hostStatus := 0x25 }.dev = .attached
    ∧ { attached with irqPending := true, hostStatus := 0x25 }.handler = .idle
    ∧ { attached with irqPending := true, hostStatus := 0x25 }.irqPending = true := by decide

/-- The three decisions: an unusable device, a SyncLoss, a benign status; each from a state of the hypotheses. -/
theorem witness_HandlerDecides : ∀ e ∈ [(true, 4#32), (false, 4#32), (false, 0x20#32), (false, 1#32)],
    { attached with handler := .decide e.2, unusable := e.1 }.dev = .attached
    ∧ { attached with handler := .decide e.2, unusable := e.1 }.handler = .decide e.2
    ∧ { attached with handler := .decide e.2, unusable := e.1 }.mirror = .idle := by simp [attached, State.reset]

/-- The first and the last byte of the copy, by itself, while a writer may move in between. -/
theorem witness_CopyframeCopies_step : ∀ i ∈ [0, 15], (mirrors i attached).dev = .attached
    ∧ (mirrors i attached).gate = .heldIRQ ∧ (mirrors i attached).mirror = .mirroring
    ∧ (mirrors i attached).handler = .cycle
    ∧ (mirrors i attached).irqSeqPc < (mirrors i attached).width * (mirrors i attached).height * 2 := by decide

theorem witness_CopyframeCopies : (mirrors 0 attached).dev = .attached ∧ (mirrors 0 attached).gate = .heldIRQ
    ∧ (mirrors 0 attached).mirror = .mirroring ∧ (mirrors 0 attached).irqSeqPc = 0 := by decide

theorem witness_MirrorCompletes : (bus (some 25) (mirrors 0 attached)).dev = .attached
    ∧ (bus (some 25) (mirrors 0 attached)).gate = .heldIRQ ∧ (bus (some 25) (mirrors 0 attached)).mirror = .mirroring
    ∧ (bus (some 25) (mirrors 0 attached)).irqSeqPc = 0 ∧ paramsWf attached.cfg = true
    ∧ busDelivers (bus (some 25) (mirrors 0 attached)) 25 :=
  ⟨rfl, rfl, rfl, rfl, by decide, delivers_of_some rfl (by decide)⟩

/-- Two cycles over the same FrameBuffer, the second after a producer's write. -/
theorem witness_MirrorIsIdempotent : ∃ s1 s2 t1 t2 : State, s1.irqSeqPc = 0 ∧ s2.irqSeqPc = 0
    ∧ busDelivers s1 25 ∧ busDelivers s2 25 ∧ s1.width = s2.width ∧ s1.height = s2.height
    ∧ (∀ i, i < s1.width * s1.height * 2 → fbRead s1 i = fbRead s2 i) ∧ s1.sb ≠ s2.sb
    ∧ exec .mirror s1 = .next t1 ∧ exec .mirror s2 = .next t2 :=
  ⟨mirrors 0 { attached with fb := frame }, mirrors 0 { attached with fb := frame, sb := [(1, 0xFF)] }, _, _, rfl, rfl,
    delivers_of_none _ rfl, delivers_of_none _ rfl, rfl, rfl, fun _ _ => rfl, by decide, rfl, rfl⟩

theorem witness_AttachCompletes : State.reset.dev = .detached ∧ (1 ≤ 65536 ∧ 65536 ≤ 65536)
    ∧ 8589934592 = 65536 * 65536 * 2 ∧ busDelivers State.reset (initWords State.reset.cfg).length
    ∧ busDelivers { State.reset with cfg := table, busPlan := some 4 } (initWords table).length :=
  ⟨rfl, by decide, by decide, delivers_of_none _ rfl, delivers_of_some rfl (by decide)⟩

theorem witness_AttachRefusesBadArguments : State.reset.dev = .detached
    ∧ ¬ (1 ≤ 0 ∧ 0 ≤ 65536 ∧ 1 ≤ 1 ∧ 1 ≤ 65536 ∧ 0 = 0 * 1 * 2)
    ∧ ¬ (1 ≤ 1 ∧ 1 ≤ 65536 ∧ 1 ≤ 65537 ∧ 65537 ≤ 65536 ∧ 131074 = 1 * 65537 * 2)
    ∧ ¬ (1 ≤ 1 ∧ 1 ≤ 65536 ∧ 1 ≤ 1 ∧ 1 ≤ 65536 ∧ 3 = 1 * 1 * 2) := by decide

theorem witness_InitseqReplays (p : Params) : { attached with initDue := true, cfg := p }.dev = .attached
    ∧ { attached with initDue := true, cfg := p }.initDue = true
    ∧ busDelivers { attached with initDue := true, cfg := p } (initWords p).length :=
  ⟨rfl, rfl, delivers_of_none _ rfl⟩

theorem witness_InitseqFaultStops : ∀ n ∈ [0, 3], { State.reset with cfg := table, busPlan := some n }.dev = .detached
    ∧ { State.reset with cfg := table, busPlan := some n }.busPlan = some n ∧ n < (initWords table).length := by decide

theorem witness_DetachFrees : (waits text 0 attached).dev = .attached ∧ (waits text 0 attached).gate = .free
    ∧ (waits text 0 attached).handler = .idle := by decide

/-- A holder, a handler under way, and neither. -/
theorem witness_DetachWaits : (held text 3 attached).dev = .attached ∧ (held text 3 attached).gate ≠ .free
    ∧ { attached with handler := .tryAcq }.dev = .attached ∧ { attached with handler := .tryAcq }.handler ≠ .idle
    ∧ attached.dev = .attached ∧ attached.gate = .free ∧ attached.handler = .idle := by decide

theorem witness_CallerTakesResult :
    slotOf { attached with fgs := [⟨.done .busFault, 20⟩, ⟨.empty, 0⟩] } 0 = some (.done .busFault) := by decide

/-- The last byte of the StagingBuffer; the owner's write has no premise. -/
theorem witness_ExternalWritesChangeOneByte : attached.dev = .attached ∧ 15 < attached.width * attached.height * 2 := by
  decide

/-! The invariants, in states where somebody holds the gate. -/

theorem gateInv_attached : GateInv attached where
  mirrorIff := by decide
  cycleIff := by decide
  runningIff k := by
    match k with
    | 0 => exact ⟨fun ⟨r, hr⟩ => (by cases hr), fun h => (by cases h)⟩
    | 1 => exact ⟨fun ⟨r, hr⟩ => (by cases hr), fun h => (by cases h)⟩
    | k + 2 => exact ⟨fun ⟨r, hr⟩ => (by cases hr), fun h => (by cases h)⟩
  unusableFree := by decide
  detachedIdle := by decide
  attachDone := rfl
  admitted k r h := by
    match k, h with
    | 0, .inl h => cases h
    | 0, .inr ⟨t, h⟩ => cases h
    | 1, .inl h => cases h
    | 1, .inr ⟨t, h⟩ => cases h
    | k + 2, .inl h => cases h
    | k + 2, .inr ⟨t, h⟩ => cases h

theorem gateInv_held (n : Nat) : GateInv (held fill n attached) where
  mirrorIff := by simp [held, attached, State.reset]
  cycleIff := by simp [held, attached, State.reset]
  runningIff k := by
    match k with
    | 0 => exact ⟨fun _ => rfl, fun _ => ⟨fill, rfl⟩⟩
    | 1 => exact ⟨fun ⟨r, hr⟩ => (by cases hr), fun h => (by cases h)⟩
    | k + 2 => exact ⟨fun ⟨r, hr⟩ => (by cases hr), fun h => (by cases h)⟩
  unusableFree h := by cases h
  detachedIdle h := by cases h
  attachDone := rfl
  admitted k r h := by
    match k, h with
    | 0, .inl h => cases h; exact (by decide : validRequest 4 2 fill = true)
    | 0, .inr ⟨t, h⟩ => cases h
    | 1, .inl h => cases h
    | 1, .inr ⟨t, h⟩ => cases h
    | k + 2, .inl h => cases h
    | k + 2, .inr ⟨t, h⟩ => cases h

theorem gateInv_mirrors (n : Nat) : GateInv (mirrors n attached) where
  mirrorIff := by simp [mirrors]
  cycleIff := by simp [mirrors]
  runningIff k := by
    match k with
    | 0 => exact ⟨fun ⟨r, hr⟩ => (by cases hr), fun h => (by cases h)⟩
    | 1 => exact ⟨fun ⟨r, hr⟩ => (by cases hr), fun h => (by cases h)⟩
    | k + 2 => exact ⟨fun ⟨r, hr⟩ => (by cases hr), fun h => (by cases h)⟩
  unusableFree h := by cases h
  detachedIdle h := by cases h
  attachDone := rfl
  admitted := gateInv_attached.admitted

theorem gateInv_withBus {s : State} (h : GateInv s) (p : Option Nat) : GateInv (bus p s) :=
  h.congr rfl rfl rfl (fun _ => rfl) rfl rfl rfl rfl rfl

/-- In the handler, outside the cycle, with the gate as it is. -/
theorem gateInv_decides (v : Word) : GateInv { attached with handler := .decide v } :=
  { gateInv_attached with
    cycleIff := by simp [attached, State.reset]
    detachedIdle := fun h => by cases h }

theorem witness_InterruptContextNeverWaits :
    (GateInv (mirrors 0 attached) ∧ (mirrors 0 attached).dev = .attached ∧ (mirrors 0 attached).handler ≠ .idle)
    ∧ GateInv { attached with irqPending := true } ∧ { attached with irqPending := true }.irqPending = true :=
  ⟨⟨gateInv_mirrors 0, rfl, by decide⟩, gateInv_attached.congr rfl rfl rfl (fun _ => rfl) rfl rfl rfl rfl rfl, rfl⟩

/-- The clause about every step: an interrupt that is taken while the gate is free. -/
theorem witness_OnlyTheHolderUsesTheBus : ∃ s t, GateInv s ∧ s.dev = .attached ∧ s.gate = .free ∧ s.irqPending = true
    ∧ step s = .next t :=
  ⟨{ attached with irqPending := true }, _, gateInv_attached.congr rfl rfl rfl (fun _ => rfl) rfl rfl rfl rfl rfl, rfl,
    rfl, rfl, rfl⟩

/-- The holder's next micro-step, from a state in which somebody holds the gate. -/
theorem witness_GateInvKept : ∃ t, GateInv (held fill 3 attached) ∧ step (held fill 3 attached) = .next t :=
  ⟨_, gateInv_held 3, rfl⟩

/-- A state in which nobody holds the gate has no `BEGINWR` to come. -/
theorem burstInv_of_free {s : State} (h : s.gate = .free) : BurstInv s := fun ms hr => by
  simp [holderRest, h] at hr

/-- `BurstInv` where a fill is about to execute `BEGINWR`. -/
theorem burstInv_readyAt : BurstInv (readyAt fill 24) := fun ms hr => by
  cases hr
  refine ⟨fun _ => by decide, ?_⟩
  repeat refine ⟨fun h => absurd h (by decide), ?_⟩
  trivial

/-- The step clause, from a state in which the holder is about to execute `BEGINWR`, and what it finds there. -/
theorem witness_CursorSetBeforeBurst_step : ∃ t, GateInv (readyAt fill 24) ∧ BurstInv (readyAt fill 24)
    ∧ onlyTheList (readyAt fill 24) ∧ step (readyAt fill 24) = .next t :=
  ⟨_, (gateInv_held 24).congr rfl rfl rfl (fun _ => rfl) rfl rfl rfl rfl rfl, burstInv_readyAt,
    fun _ _ _ _ h => (by cases h), rfl⟩

theorem witness_MemoriesWfKept : ∃ t, memoriesWf { mirrors 0 attached with fb := frame, sb := [(1, 0xFF)] }
    ∧ step { mirrors 0 attached with fb := frame, sb := [(1, 0xFF)] } = .next t :=
  ⟨_, by unfold memoriesWf; decide, rfl⟩

/-- `windowInv` where the gate is free and the window is full-screen and trusted. -/
theorem windowInv_full : WindowInv { attached with ctl := { attached.ctl with winValid := true } } where
  restored _ := by unfold windowFull; decide
  inRange _ := by unfold screenInRange; decide

theorem noBareSetwin_of_nil {s : State} (h : s.input = []) : noBareSetwin s := fun f bs rest _ _ _ _ e => by
  rw [h] at e; cases e

theorem witness_WindowRestoredKept : ∃ s t, GateInv s ∧ WindowInv s ∧ s.ctl.winValid = true
    ∧ s.cfg.blitRestoreWindow = true ∧ noBareSetwin s ∧ step s = .next t :=
  ⟨{ attached with ctl := { attached.ctl with winValid := true } }, _,
    gateInv_attached.congr rfl rfl rfl (fun _ => rfl) rfl rfl rfl rfl rfl, windowInv_full, rfl, rfl,
    noBareSetwin_of_nil rfl, rfl⟩

/-- A fill at micro-step 16: the window of its rectangle is trusted. -/
theorem witness_WindowStaysOnScreen : ∃ s t, GateInv s ∧ WindowBounds s ∧ s.ctl.winValid = true ∧ noBareSetwin s
    ∧ step s = .next t :=
  ⟨{ held fill 16 attached with ctl := { attached.ctl with winX0 := 1, winX1 := 2, winValid := true } }, _,
    (gateInv_held 16).congr rfl rfl rfl (fun _ => rfl) rfl rfl rfl rfl rfl,
    ⟨fun _ => by decide, fun _ => by unfold screenInRange; decide⟩, rfl, noBareSetwin_of_nil rfl, rfl⟩

theorem witness_HolderExcludesOthers_moves : ∃ t u, GateInv (held fill 3 attached)
    ∧ (held fill 3 attached).gate = .heldFG 0 ∧ byAnother (.fg 0) (held fill 3 attached) t
    ∧ GateInv (mirrors 16 attached) ∧ (mirrors 16 attached).gate = .heldIRQ ∧ byAnother .irqa (mirrors 16 attached) u :=
  ⟨_, _, gateInv_held 3, rfl, .inl ⟨.irqa, by decide, rfl⟩, gateInv_mirrors 16, rfl, .inl ⟨.fg 1, by decide, rfl⟩⟩

/-- A `SUBMIT` on the other port, and a `DETACH`, while the gate is held. -/
theorem witness_HolderExcludesOthers_operations : ∃ t u, GateInv (held fill 3 attached)
    ∧ (held fill 3 attached).gate = .heldFG 0 ∧ byAnother (.fg 0) (held fill 3 attached) t
    ∧ GateInv (mirrors 16 attached) ∧ (mirrors 16 attached).gate = .heldIRQ ∧ byAnother .irqa (mirrors 16 attached) u :=
  ⟨_, _, gateInv_held 3, rfl, .inr ⟨.submit 1 ⟨1, 0, 0, 1, 1, 0, 0, 2, [0xF8, 0]⟩, rfl, rfl⟩, gateInv_mirrors 16, rfl,
    .inr ⟨.detach, rfl, rfl⟩⟩

theorem witness_MicroStepsMakeTheOperation : (held fill 3 attached).gate = .heldFG 0
    ∧ (held fill 3 attached).fgs[0]? = some ⟨.running fill, 3⟩
    ∧ (bus (some 5) (mirrors 0 attached)).dev = .attached ∧ (bus (some 5) (mirrors 0 attached)).gate = .heldIRQ
    ∧ (bus (some 5) (mirrors 0 attached)).mirror = .mirroring ∧ (bus (some 5) (mirrors 0 attached)).handler = .cycle
    ∧ (bus (some 5) (mirrors 0 attached)).irqPending = false := by decide

theorem witness_UnusableUntilReattach : ∃ s t, GateInv s ∧ s.dev = .attached ∧ s.unusable = true ∧ s.irqPending = true
    ∧ step s = .next t :=
  ⟨{ attached with unusable := true, irqPending := true }, _,
    { gateInv_attached with unusableFree := fun _ => rfl }, rfl, rfl, rfl, rfl⟩

/-- A completed cycle, a SyncLoss, a BusFault inside a cycle: each counts once. -/
theorem witness_CountersCountOnlyTheirEvents : ∃ t u v,
    (GateInv (mirrors 42 attached) ∧ step (mirrors 42 attached) = .next t ∧ t.dev = .attached ∧ t.mirrorCount = 1)
    ∧ (GateInv { attached with handler := .decide 4 } ∧ step { attached with handler := .decide 4 } = .next u
      ∧ u.dev = .attached ∧ u.faultCount = 1)
    ∧ GateInv (bus (some 0) (mirrors 16 attached)) ∧ step (bus (some 0) (mirrors 16 attached)) = .next v
      ∧ v.dev = .attached ∧ v.faultCount = 1 :=
  ⟨_, _, _, ⟨gateInv_mirrors 42, rfl, by decide, by decide⟩, ⟨gateInv_decides 4, rfl, by decide, by decide⟩,
    gateInv_withBus (gateInv_mirrors 16) (some 0), rfl, by decide, by decide⟩

theorem witness_ConfigurationIsConstant : ∃ t, step (held fill 3 attached) = .next t
    ∧ (held fill 3 attached).dev = .attached ∧ t.dev = .attached := ⟨_, rfl, rfl, by decide⟩

theorem witness_BlockNeverWritesFrameBuffer :
    ∃ t, exec .copyframe (mirrors 0 { attached with fb := frame }) = .next t := ⟨_, rfl⟩

/-! ### Steps and placing -/

-- The next entry of the input, an operation, a move, and bytes that decode to nothing.
theorem test_step_op : seen (fun t => (words t, t.input)) (step { held text 0 attached with
    input := [.op .bus [0, 0, 0x46], .move .tick] }) = some ([0x00046], [.move .tick]) := by decide
theorem test_step_refuses : step { attached with input := [.op .opid [31]] } =
    .refused (.undecodable (.unusedOpNumber 31)) := by rfl
-- P5: a `Tick` ages the waiting request, and the timeout fires only with the gate held.
theorem test_tick : seen (fun t => slotOf t 0) (step { waits text 0 attached with input := [.move .tick] })
    = some (some (.waiting text 1)) := by decide
-- P2 step 2: an interrupt during a foreground operation; nothing but the handler's own state changes.
theorem test_auto_irq_first : seen (fun t => (t.handler, t.trace, t.gate)) (step { held text 3 attached with
    irqPending := true, hostStatus := 1 }) = some (.ack 1, [], .heldFG 0) := by decide
-- Log entry 6: a placed word runs as the first operation after reset.
theorem test_placed_wdat : seen words (step (State.reset.withFetchWord 24 0x1000A)) = some [0x1000A] := by decide
theorem test_placed_attach_refused : seen (fun t => t.dev) (step (State.reset.withFetchWord 8 0x10)) = some .detached := by
  decide

end Sys2Proof.Tests
end

section
/-! PROOFS. The StagingBuffer over a mirror cycle (20_memory.md R83): only the copy writes it, and the copy writes every
byte of it, whatever stood there before. -/

namespace Sys2Proof.Machine

/-! ### What leaves the StagingBuffer as it was -/

@[simp] theorem bumpSeq_sb (s : State) : (bumpSeq s).sb = s.sb := by unfold bumpSeq; cases s.gate <;> rfl

@[simp] theorem release_sb (s : State) : (release s).sb = s.sb := by unfold release; cases s.gate <;> rfl

@[simp] theorem takeBusFault_sb (s : State) : (takeBusFault s).sb = s.sb := by
  unfold takeBusFault; cases s.gate <;> rfl

/-- Completing an operation leaves the StagingBuffer as the operation left it, on a BusFault too. -/
theorem complete_sb (x : Run) : (complete x).sb = x.final.sb := by
  cases x with
  | ok s => exact release_sb s
  | error s => rfl

/-- No micro-step of the list copies a byte. -/
def CopiesNothing (ms : List Micro) : Prop := ∀ m ∈ ms, ∀ i, m ≠ .copyByte i

theorem BusOnly.copiesNothing {ms : List Micro} (h : BusOnly ms) : CopiesNothing ms := by
  intro m hm i hi
  obtain ⟨w, before, after, rfl⟩ := h m hm
  cases hi

/-- A micro-step that copies no byte leaves the StagingBuffer as it was, whether or not its transaction faults. -/
theorem microStep_final_sb {m : Micro} (h : ∀ i, m ≠ .copyByte i) (s : State) : (microStep m s).final.sb = s.sb := by
  cases m with
  | bus w before after =>
    rcases busTransaction_cases w (applyMark before s) with ⟨p, hx⟩ | hx
    · simp only [microStep, hx]; rfl
    · simp only [microStep, hx]; exact takeBusFault_sb _
  | copyByte i => exact absurd rfl (h i)
  | engineStart => rfl

/-- A list that copies no byte leaves the StagingBuffer as it was, wherever a BusFault ends it. -/
theorem runOperation_final_sb {ms : List Micro} (h : CopiesNothing ms) (s : State) :
    (runOperation ms s).final.sb = s.sb := by
  induction ms generalizing s with
  | nil => rfl
  | cons m ms ih =>
    have hm : (microStep m s).final.sb = s.sb := microStep_final_sb (h m (by simp)) s
    simp only [runOperation, runMicros]
    cases hx : microStep m s with
    | ok t =>
      rw [hx] at hm
      calc (runOperation ms (bumpSeq t)).final.sb
        _ = (bumpSeq t).sb := ih (fun m hm => h m (by simp [hm])) _
        _ = t.sb := bumpSeq_sb t
        _ = s.sb := hm
    | error t => rw [hx] at hm; exact hm

/-! ### The mirror cycle -/

/-- The micro-steps of `MIRROR` behind the copy (R166). -/
def mirrorTail (p : Params) (w h : Nat) : List Micro :=
  setfullSteps p w h ++ setcurSteps 0 0 ++ beginwrSteps p ++ [.engineStart]

theorem mirrorSteps_eq (p : Params) (w h : Nat) : mirrorSteps p w h = copyframeSteps w h ++ mirrorTail p w h := by
  simp [mirrorSteps, mirrorTail]

theorem copiesNothing_mirrorTail (p : Params) (w h : Nat) : CopiesNothing (mirrorTail p w h) := by
  have hbus : BusOnly (setfullSteps p w h ++ setcurSteps 0 0 ++ beginwrSteps p) :=
    ((busOnly_setwin _ _ _ _ _).append (busOnly_setcur 0 0)).append (busOnly_beginwr p)
  intro m hm
  rcases List.mem_append.1 hm with hm | hm
  · exact hbus.copiesNothing m hm
  · simp [List.mem_singleton.1 hm]

/-- A cycle from its start leaves in the StagingBuffer what the copy wrote there (R166). -/
theorem holderRun_mirror_sb {s : State} (hg : s.gate = .heldIRQ) (hm : s.mirror = .mirroring) (hi : s.irqSeqPc = 0) :
    (holderRun s).sb = (List.range (frameSize s)).foldl (fun m i => sparseWrite i (fbRead s i) m) s.sb := by
  have hrest : holderRest s = some (copyframeSteps s.width s.height ++ mirrorTail s.cfg s.width s.height) := by
    simp [holderRest, hg, hm, mirrorRest, hi, mirrorSteps_eq]
  simp only [holderRun, hrest, complete_sb, runOperation, runMicros_append, copyframeSteps, runMicros_copy _ s hg]
  exact runOperation_final_sb (copiesNothing_mirrorTail _ _ _) _

/-- A cycle from its start makes every byte of the frame the FrameBuffer's and leaves every other as it was, wherever a
BusFault ends it: the copy comes before the first transaction (R165, R166). -/
theorem sbRead_execMirror {s t : State} (hi : s.irqSeqPc = 0) (h : exec .mirror s = .next t) (i : Nat) :
    sbRead t i = if i < frameSize s then some (fbRead s i) else sbRead s i := by
  simp only [exec, execMirror] at h
  split at h
  case isFalse => cases h
  case isTrue hc =>
    cases h
    simp only [inMirrorCycle, Bool.and_eq_true, beq_iff_eq] at hc
    obtain ⟨⟨-, hg⟩, hm⟩ := hc
    simp only [sbRead, holderRun_mirror_sb hg hm hi, sparseRead_foldl_write, List.mem_range]

/-- Settles O40: each cycle leaves the FrameBuffer's bytes, and the two FrameBuffers agree. -/
theorem mirrorIsIdempotent : Obligations.MirrorIsIdempotent := by
  intro s1 s2 t1 t2 hi1 hi2 _ _ hw hh hfb h1 h2 i hi
  have hsize : frameSize s2 = frameSize s1 := by simp [frameSize, hw, hh]
  have ht1 : sbRead t1 i = some (fbRead s1 i) := (sbRead_execMirror hi1 h1 i).trans (if_pos hi)
  have ht2 : sbRead t2 i = some (fbRead s2 i) := (sbRead_execMirror hi2 h2 i).trans (if_pos (hsize ▸ hi))
  exact ⟨by rw [ht1, ht2, hfb i hi], ht1⟩

end Sys2Proof.Machine
end

section
/-! PROOFS. The status classes (R103): the test of two bits and the test against the mask `0x24` agree on every status. -/

namespace Sys2Proof.Machine

/-- A status is no SyncLoss exactly when both bits are clear (R103). -/
theorem syncLoss_eq_false_iff (v : Word) : syncLoss v = false ↔ v.getLsbD 2 = false ∧ v.getLsbD 5 = false := by
  unfold syncLoss
  exact Bool.or_eq_false_iff

/-- The mask of R103 is made of bit 2 and bit 5. -/
theorem mask24_eq_twoPow : 0x24#32 = BitVec.twoPow 32 2 ||| BitVec.twoPow 32 5 := by decide

theorem and_twoPow_eq_zero_iff {w i : Nat} (hi : i < w) (v : BitVec w) :
    v &&& BitVec.twoPow w i = 0#w ↔ v.getLsbD i = false := by
  rw [BitVec.and_twoPow]
  cases v.getLsbD i with
  | false => simp
  | true =>
    have hne : BitVec.twoPow w i ≠ 0#w := fun h => by
      have hbit := congrArg (BitVec.getLsbD · i) h
      simp [hi] at hbit
    simpa using hne

/-- A status is no SyncLoss exactly when the mask leaves nothing of it (R103). -/
theorem and_mask24_eq_zero_iff (v : Word) : v &&& 0x24#32 = 0#32 ↔ syncLoss v = false := by
  rw [mask24_eq_twoPow, BitVec.and_or_distrib_left, BitVec.or_eq_zero_iff, and_twoPow_eq_zero_iff (by decide),
    and_twoPow_eq_zero_iff (by decide), syncLoss_eq_false_iff]

/-- Settles O3: the mask's two bits are the two the class asks for, and 0 has neither. -/
theorem syncLossIsMask24 : Obligations.SyncLossIsMask24 := by
  refine ⟨fun v => ⟨?_, syncLoss_eq_false_iff v⟩, (and_mask24_eq_zero_iff 0).1 BitVec.zero_and⟩
  calc syncLoss v = true
    _ ↔ ¬ syncLoss v = false := (Bool.not_eq_false _).to_iff.symm
    _ ↔ v &&& 0x24#32 ≠ 0#32 := not_congr (and_mask24_eq_zero_iff v).symm

end Sys2Proof.Machine
end

section
/-! PROOFS. `SUBMIT` of a blit (42_drawingprimitives.md R143): what a port answers, once for every descriptor, and the
validity of a blit. -/

namespace Sys2Proof

/-- A payload of the declared length is delivered whole (R105, R245 (b)). -/
theorem Descriptor.take_payload_of_wf {d : Descriptor} (h : d.wf = true) : d.payload.take d.plen = d.payload :=
  List.take_of_length_le (Nat.le_of_eq (beq_iff_eq.1 h))

/-- `H0 = 0x0001` with its must-be-zero field at 0 stands for a blit of the delivered bytes (R105). -/
theorem decodeRequest_blit {d : Descriptor} (h0 : d.h0 = 0x0001) (h5 : d.h5 = 0) (hwf : d.wf = true) :
    decodeRequest d = .ok (.blit d.h1 d.h2 d.h3 d.h4 d.payload) := by
  simp [decodeRequest, h0, h5, Descriptor.take_payload_of_wf hwf]

end Sys2Proof

namespace Sys2Proof.Machine

/-- A `SUBMIT` on an empty port puts the port's answer in its slot and changes nothing else (R184). -/
theorem exec_submit_of_empty {k : Nat} {s : State} (hs : slotOf s k = some .empty) (d : Descriptor) :
    exec (.submit k d) s = .next (setSlot k (portAnswer d s) s) := by
  simp only [exec, execSubmit, hs]

/-- A usable device answers a decodable descriptor by the request's validity alone (R184 steps 3 and 4). -/
theorem portAnswer_of_usable {d : Descriptor} {r : Request} {s : State} (hdec : decodeRequest d = .ok r)
    (hd : s.dev = .attached) (hu : s.unusable = false) :
    portAnswer d s = if validRequest s.width s.height r = true then .waiting r 0 else .done .sizeMismatch := by
  simp [portAnswer, hdec, hd, hu]

/-- R143: a blit is valid exactly when (a), (b) and (c) hold. -/
theorem validRequest_blit_iff (w h : Nat) (x0 y0 bw bh : Half) (bytes : List Byte) :
    validRequest w h (.blit x0 y0 bw bh bytes) = true ↔
      bytes.length = bw.toNat * bh.toNat * 2 ∧ 1 ≤ bw.toNat ∧ 1 ≤ bh.toNat
        ∧ x0.toNat + bw.toNat - 1 ≤ w - 1 ∧ y0.toNat + bh.toNat - 1 ≤ h - 1 :=
  decide_eq_true_iff

/-- Settles O22: the descriptor is decoded to its blit, and the port answers by (a), (b) and (c) of R143. -/
theorem submitBlit : Obligations.SubmitBlit := by
  intro k d s hs hd hu h0 h5 hwf
  have hans := (portAnswer_of_usable (decodeRequest_blit h0 h5 hwf) hd hu).trans
    (if_congr (validRequest_blit_iff s.width s.height d.h1 d.h2 d.h3 d.h4 d.payload) rfl rfl)
  rw [exec_submit_of_empty hs, hans]
  rfl

end Sys2Proof.Machine
end

section
/-! PROOFS. The interrupt (43_mirrorpipeline.md): its arrival (R160), and the progress `IRQA` makes with every step of its
own (R169): it moves to another place of its handler or completes a micro-step of the cycle. -/

namespace Sys2Proof.Machine

/-- Settles O35: `IRQ` has no effect but R160's, the latch of an attached device. -/
theorem irqArrives : Obligations.IrqArrives := by
  intro s
  simp only [exec, execIrq]

/-! ### One step of `IRQA`, by its place in the handler -/

section
variable {s : State} (hd : s.dev = .attached)
include hd

theorem irqaStep_of_pending (hh : s.handler = .idle) (hp : s.irqPending = true) : irqaStep s = handlerEnter s := by
  simp [irqaStep, hd, hh, hp]

theorem irqaStep_of_ack {v : Word} (hh : s.handler = .ack v) : irqaStep s = handlerAck v s := by
  simp [irqaStep, hd, hh]

theorem irqaStep_of_decide {v : Word} (hh : s.handler = .decide v) : irqaStep s = handlerDecide v s := by
  simp [irqaStep, hd, hh]

theorem irqaStep_of_tryAcq (hh : s.handler = .tryAcq) : irqaStep s = tryAcquire s := by
  simp [irqaStep, hd, hh]

theorem irqaStep_of_cycle (hh : s.handler = .cycle) (hg : s.gate = .heldIRQ) : irqaStep s = holderStep s := by
  simp [irqaStep, hd, hh, hg]

end

/-! ### Where each step leaves the handler -/

/-- The decision on the status ends the handler or goes on to `TRYACQ` (R161, R163, R170). -/
theorem handlerDecide_handler (v : Word) (s : State) :
    (handlerDecide v s).handler = .idle ∨ (handlerDecide v s).handler = .tryAcq := by
  unfold handlerDecide
  split
  case isTrue => exact .inl rfl
  case isFalse =>
    split
    case isTrue => exact .inl rfl
    case isFalse => exact .inr rfl

/-- `TRYACQ` answers at once: it enters the cycle or ends the handler (R182, R167). -/
theorem tryAcquire_handler (s : State) : (tryAcquire s).handler = .cycle ∨ (tryAcquire s).handler = .idle := by
  unfold tryAcquire
  split
  case isTrue => exact .inl rfl
  case isFalse => exact .inr rfl

theorem holderRest_of_mirroring {s : State} (hg : s.gate = .heldIRQ) (hm : s.mirror = .mirroring) :
    holderRest s = some (mirrorRest s) := by
  simp [holderRest, hg, hm]

/-- A step of the mirror cycle ends the handler, by completion (R168) or by a BusFault (R214), or completes one
micro-step (R26). -/
theorem holderStep_mirror_progress {s : State} (hg : s.gate = .heldIRQ) (hm : s.mirror = .mirroring) :
    (holderStep s).handler = .idle ∨ (holderStep s).irqSeqPc = s.irqSeqPc + 1 := by
  unfold holderStep
  rw [holderRest_of_mirroring hg hm]
  cases mirrorRest s with
  | nil => exact .inl (by simp [release_irq hg])
  | cons m ms =>
    rcases microStep_cases m s with ⟨t, ht, hu⟩ | ⟨t, ht, hu⟩
    · have hgt : t.gate = .heldIRQ := hu.gate.trans hg
      have hpc : t.irqSeqPc = s.irqSeqPc := (microStep_positions ht).2
      exact .inr (by simp [ht, bumpSeq, hgt, hpc])
    · have hgt : t.gate = .heldIRQ := hu.gate.trans hg
      exact .inl (by simp [ht, takeBusFault_irq hgt])

theorem ne_of_handler_ne {s t : State} (h : t.handler ≠ s.handler) : t ≠ s := fun e => h (e ▸ rfl)

/-- Settles O41, by the place in the handler: outside the cycle the step changes the place; in the cycle `IRQA` holds the
gate, so its step ends the handler or counts a micro-step. -/
theorem interruptContextNeverWaits : Obligations.InterruptContextNeverWaits := by
  intro s hinv hd hactive
  cases hh : s.handler with
  | idle =>
    have hp : s.irqPending = true := hactive.resolve_left fun hne => hne hh
    rw [irqaStep_of_pending hd hh hp]
    exact ne_of_handler_ne (by simp [hh])
  | ack v =>
    rw [irqaStep_of_ack hd hh]
    exact ne_of_handler_ne (by simp [hh])
  | decide v =>
    rw [irqaStep_of_decide hd hh]
    rcases handlerDecide_handler v s with h | h <;> exact ne_of_handler_ne (by simp [h, hh])
  | tryAcq =>
    rw [irqaStep_of_tryAcq hd hh]
    rcases tryAcquire_handler s with h | h <;> exact ne_of_handler_ne (by simp [h, hh])
  | cycle =>
    have hg : s.gate = .heldIRQ := hinv.cycleIff.1 hh
    rw [irqaStep_of_cycle hd hh hg]
    rcases holderStep_mirror_progress hg (hinv.mirrorIff.2 hg) with h | h
    · exact ne_of_handler_ne (by simp [h, hh])
    · intro e
      rw [e] at h
      omega

end Sys2Proof.Machine
end

section
/-! PROOFS. For each operation of an agent, once, everything it can do: `ACQ`, `TRYACQ`, the handler's decision, `RDAT`; and
what a BusFault, the count of a micro-step and the release of the gate leave. -/

namespace Sys2Proof.Machine

/-- `RDAT` changes the value read and the counter of free values (R122). -/
theorem readShadow_eq (s : State) : ∃ v n, readShadow s = { s with rdatValue := v, freeCtr := n } := by
  unfold readShadow
  split
  case isTrue => exact ⟨_, s.freeCtr, rfl⟩
  case isFalse => exact ⟨_, _, rfl⟩

/-- `ACQ` takes the free gate of a usable device, ends with a result, or waits (R181, R185, R215). -/
theorem acquire_cases (k : Nat) (r : Request) (n : Nat) (s : State) :
    (s.dev = .attached ∧ s.unusable = false ∧ s.gate = .free
        ∧ acquire k r n s = setSeqPc k 0 (setSlot k (.running r) { s with gate := .heldFG k }))
      ∨ (∃ res, acquire k r n s = setSlot k (.done res) s) ∨ acquire k r n s = s := by
  unfold acquire
  split
  case isTrue => exact .inr (.inl ⟨_, rfl⟩)
  case isFalse hdu =>
    push Not at hdu
    split
    case h_1 hg => exact .inl ⟨attached_of_ne hdu.1, by simpa using hdu.2, hg, rfl⟩
    all_goals
      split
      · exact .inr (.inl ⟨_, rfl⟩)
      · exact .inr (.inr rfl)

/-- `TRYACQ` takes the free gate of a usable device for a mirror cycle, or drops the cycle (R182, R167). -/
theorem tryAcquire_cases (s : State) :
    (s.gate = .free ∧ s.unusable = false
        ∧ tryAcquire s = { s with gate := .heldIRQ, irqSeqPc := 0, mirror := .mirroring, handler := .cycle })
      ∨ tryAcquire s = handlerReturn s := by
  unfold tryAcquire
  split
  case isTrue ho =>
    simp only [gateOpen, Bool.and_eq_true, beq_iff_eq, Bool.not_eq_eq_eq_not, Bool.not_true] at ho
    exact .inl ⟨ho.1, ho.2, rfl⟩
  case isFalse => exact .inr rfl

/-- The handler's decision ends the handler, counts a SyncLoss and ends it, or goes on to `TRYACQ` (R161, R163, R170). -/
theorem handlerDecide_cases (v : Word) (s : State) :
    handlerDecide v s = handlerReturn s
      ∨ syncLoss v = true ∧ handlerDecide v s = handlerReturn { s with faultCount := countUp s.faultCount }
      ∨ handlerDecide v s = { s with engineActive := false, handler := .tryAcq } := by
  unfold handlerDecide
  split
  case isTrue => exact .inl rfl
  case isFalse =>
    split
    case isTrue hv => exact .inr (.inl ⟨hv, rfl⟩)
    case isFalse => exact .inr (.inr rfl)

/-! ### What every BusFault leaves -/

@[simp] theorem takeBusFault_gate (s : State) : (takeBusFault s).gate = .free := (takeBusFault_always s).1

@[simp] theorem takeBusFault_ctl (s : State) : (takeBusFault s).ctl = faultCtl s.ctl := by
  obtain ⟨-, -, hctl, -⟩ := takeBusFault_always s
  exact hctl

/-! ### The count of a micro-step and the release of the gate -/

section
variable (s : State)
@[simp] theorem bumpSeq_fb : (bumpSeq s).fb = s.fb := (untouched_bumpSeq s).fb
@[simp] theorem bumpSeq_chip : (bumpSeq s).chip = s.chip := countOnly_bumpSeq.chip s

@[simp] theorem release_gate : (release s).gate = .free := by cases h : s.gate <;> simp [release, h]
@[simp] theorem release_cfg : (release s).cfg = s.cfg := by unfold release; cases s.gate <;> rfl
@[simp] theorem release_dev : (release s).dev = s.dev := by unfold release; cases s.gate <;> rfl
@[simp] theorem release_unusable : (release s).unusable = s.unusable := by unfold release; cases s.gate <;> rfl
@[simp] theorem release_width : (release s).width = s.width := by unfold release; cases s.gate <;> rfl
@[simp] theorem release_height : (release s).height = s.height := by unfold release; cases s.gate <;> rfl
@[simp] theorem release_fbBase : (release s).fbBase = s.fbBase := by unfold release; cases s.gate <;> rfl
@[simp] theorem release_sbBase : (release s).sbBase = s.sbBase := by unfold release; cases s.gate <;> rfl
@[simp] theorem release_ctl : (release s).ctl = s.ctl := by unfold release; cases s.gate <;> rfl
@[simp] theorem release_faultCount : (release s).faultCount = s.faultCount := by unfold release; cases s.gate <;> rfl
@[simp] theorem release_fb : (release s).fb = s.fb := by unfold release; cases s.gate <;> rfl
@[simp] theorem release_chip : (release s).chip = s.chip := by unfold release; cases s.gate <;> rfl
end

end Sys2Proof.Machine
end

section
/-! PROOFS. Who holds the gate (10_state.md R40 items 1, 2 and 7): every way one state can follow another keeps `GateInv`. -/

namespace Sys2Proof.Machine

/-- Taking the entry of the input away keeps `GateInv`. -/
theorem GateInv.withInput {s : State} (h : GateInv s) (rest : List Event) : GateInv { s with input := rest } :=
  h.congr rfl rfl rfl (fun _ => rfl) rfl rfl rfl rfl rfl

theorem GateInv.readShadow {s : State} (h : GateInv s) : GateInv (readShadow s) := by
  obtain ⟨v, n, e⟩ := readShadow_eq s
  rw [e]
  exact h.congr rfl rfl rfl (fun _ => rfl) rfl rfl rfl rfl rfl

/-- The initialisation keeps `GateInv`, wherever a BusFault ends it (R196, R197). -/
theorem GateInv.replayInit {s : State} (h : GateInv { s with initDue := false }) : GateInv (replayInit s) := by
  rcases replayInit_cases s with ⟨t, e, hu, -⟩ | ⟨t, e, hu⟩
  · rw [e]
    exact (h.untouched hu).congr rfl rfl rfl (fun _ => rfl) rfl rfl rfl rfl rfl
  · rw [e]
    exact (h.untouched hu).takeBusFault

/-- No state that keeps the invariant has an `INITSEQ` outstanding. -/
theorem GateInv.not_initDue {s : State} (h : GateInv s) : ¬ s.initDue = true := by simp [h.attachDone]

/-- The handler moves on outside the mirror cycle. -/
theorem GateInv.withHandler {s : State} (h : GateInv s) (hd : s.dev = .attached) (hh : s.handler ≠ .cycle) {x : Handler}
    (hx : x ≠ .cycle) : GateInv { s with handler := x } :=
  ⟨h.mirrorIff, by simp [hx, h.not_heldIRQ hh], h.runningIff, h.unusableFree, fun e => by simp [hd] at e, h.attachDone,
    h.admitted⟩

theorem GateInv.follows {b q e : Prop} {s t : State} (h : GateInv s) (hf : Follows b q e s t) : GateInv t := by
  cases hf with
  | stay => exact h
  | word _ w _ _ => exact h.run (busTransaction_ran w s)
  | bareSetcur => exact h.run (runBare_cases _ s)
  | bareSetwin => exact h.run (runBare_cases _ s)
  | bareBeginwr => exact h.run (runBare_cases _ s)
  | shadow => exact h.readShadow
  | runRequest => exact h.holderRun
  | reject k r _ hg _ _ => exact h.endRequest hg
  | runMirror => exact h.holderRun
  | copyFrame => exact h.run (runOperation_cases _ s)
  | oneStep => exact h.holderStep
  | release hr => exact h.release (gate_ne_free_of_rest hr)
  | acquire k r n hs => exact h.acquire hs
  | tryAcquire hd hh => exact h.tryAcquire hd hh
  | submit k d hs => exact h.submit hs
  | initialise _ hi => exact absurd hi h.not_initDue
  | attach w h' b n _ _ => exact GateInv.replayInit (gateInv_attachReset w h' b s)
  | detach he => exact h.detachNow he
  | enter hd hh _ =>
    exact (h.withHandler hd (by simp [hh]) (x := .ack s.hostStatus) (by simp)).congr rfl rfl rfl (fun _ => rfl) rfl rfl rfl
      rfl rfl
  | acknowledge v hd hh =>
    exact (h.withHandler hd (by simp [hh]) (x := .decide v) (by simp)).congr rfl rfl rfl (fun _ => rfl) rfl rfl rfl rfl rfl
  | decide v hd hh => exact h.handlerDecide hd hh
  | take k res _ hs => exact h.handOver hs
  | tick => exact h.tickAll
  | latch | detachWaits | status | busAnswers | writeHost | writeStaging =>
    exact h.congr rfl rfl rfl (fun _ => rfl) rfl rfl rfl rfl rfl

/-- Settles O51: a step does one of the things `Follows` lists, and each keeps `GateInv`. -/
theorem gateInvKept : Obligations.GateInvKept := by
  intro s t h hstep
  obtain ⟨rest, hf⟩ := step_follows hstep
  exact (h.withInput rest).follows hf

end Sys2Proof.Machine
end

section
/-! PROOFS. The canonical form of the memories (log entry 10): a property that each micro-step keeps is kept by every run of
micro-steps, and each write to a sparse map keeps its form. -/

namespace Sys2Proof.Machine

/-! ### Properties that every micro-step keeps -/

/-- A property of states that a micro-step, its count and the release of the gate keep, a BusFault included. -/
structure KeptByMicros (P : State → Prop) : Prop where
  micro : ∀ m s, P s → P (microStep m s).final
  bump : ∀ s, P s → P (bumpSeq s)
  release : ∀ s, P s → P (release s)

theorem runMicros_final_keeps {P : State → Prop} {count : State → State} (hm : ∀ m s, P s → P (microStep m s).final)
    (hc : ∀ s, P s → P (count s)) (ms : List Micro) {s : State} (h : P s) : P (runMicros count ms s).final := by
  induction ms generalizing s with
  | nil => exact h
  | cons m ms ih =>
    have hs := hm m s h
    simp only [runMicros]
    cases hx : microStep m s with
    | ok t => rw [hx] at hs; exact ih (hc t hs)
    | error t => rw [hx] at hs; exact hs

section
variable {P : State → Prop} (hP : KeptByMicros P) {s : State}
include hP

theorem KeptByMicros.runBare (ms : List Micro) (h : P s) : P (runBare ms s).final :=
  runMicros_final_keeps hP.micro (fun _ h => h) ms h

theorem KeptByMicros.runOperation (ms : List Micro) (h : P s) : P (runOperation ms s).final :=
  runMicros_final_keeps hP.micro hP.bump ms h

theorem KeptByMicros.complete {x : Run} (h : P x.final) : P (complete x) := by
  cases x with
  | ok t => exact hP.release t h
  | error t => exact h

theorem KeptByMicros.holderRun (h : P s) : P (holderRun s) := by
  unfold Machine.holderRun
  split
  · exact h
  · exact hP.complete (hP.runOperation _ h)

theorem KeptByMicros.holderStep (h : P s) : P (holderStep s) := by
  unfold Machine.holderStep
  split
  · exact h
  · exact hP.release s h
  · rename_i m _ _
    have hm := hP.micro m s h
    cases hx : microStep m s with
    | ok t => rw [hx] at hm; exact hP.bump t hm
    | error t => rw [hx] at hm; exact hm

end

/-- A single transaction is the micro-step that records nothing beside it. -/
theorem microStep_plain (w : BusWord) (s : State) : microStep (plain w) s = busTransaction w s := by
  have ha : ∀ t, applyMark .none t = t := fun _ => rfl
  simp only [microStep, plain, ha]
  cases busTransaction w s <;> rfl

theorem KeptByMicros.busTransaction {P : State → Prop} (hP : KeptByMicros P) {s : State} (w : BusWord) (h : P s) :
    P (busTransaction w s).final :=
  microStep_plain w s ▸ hP.micro (plain w) s h

/-! ### The reference chip's register file and display memory -/

/-- The register file and the display memory of the chip keep their canonical form. -/
def chipWf (c : Chip) : Prop := sparseWf c.creg = true ∧ sparseWf c.vram = true

theorem chipWf_unknownChip : chipWf unknownChip := ⟨rfl, rfl⟩

theorem chipWf_pixel {c : Chip} (h : chipWf c) (v : Half) : chipWf (chipPixel v c) := by
  unfold chipPixel
  split
  · split
    · refine ⟨h.1, ?_⟩
      show sparseWf (if c.engineTraffic then [] else _) = true
      split
      · rfl
      · exact sparseWf_write _ v _ h.2
    · exact ⟨h.1, rfl⟩
  · exact ⟨h.1, rfl⟩

theorem chipWf_cursor {c : Chip} (h : chipWf c) (a : Half) : chipWf (chipCursor a c) := by
  obtain ⟨-, hreg, -, -, -, hv⟩ := chipCursor_frame a c
  refine ⟨hreg ▸ h.1, ?_⟩
  rcases hv with hv | hv
  · exact hv ▸ h.2
  · exact hv ▸ rfl

theorem chipWf_register {c : Chip} (h : chipWf c) (p : Params) (a v : Half) : chipWf (chipRegister p a v c) := by
  have hreg : sparseWf (sparseWrite a.toNat v c.creg) = true := sparseWf_write _ v _ h.1
  have hvram : sparseWf (if (windowRegs p ++ cursorRegs).contains a then c.vram else []) = true := by
    split
    · exact h.2
    · rfl
  unfold chipRegister
  by_cases hw : (windowRegs p).contains a = true <;> by_cases hc : cursorRegs.contains a = true <;>
    simp only [hw, hc, if_true, if_false, Bool.false_eq_true]
  · exact chipWf_cursor ⟨hreg, hvram⟩ a
  · exact ⟨hreg, hvram⟩
  · exact chipWf_cursor ⟨hreg, hvram⟩ a
  · exact ⟨hreg, hvram⟩

theorem chipWf_deliver {c : Chip} (h : chipWf c) (p : Params) (w : BusWord) : chipWf (chipDeliver p w c) := by
  unfold chipDeliver
  split
  · exact h
  · split
    · exact ⟨h.1, rfl⟩
    · split
      · exact chipWf_pixel h _
      · exact chipWf_register h p _ _

theorem chipWf_after {c : Chip} (h : chipWf c) (p : Params) (e : Bool) (w : BusWord) : chipWf (chipAfter p e w c) := by
  obtain ⟨-, hreg, -, -, hv⟩ := chipAfter_frame p e w c
  have hd := chipWf_deliver h p w
  refine ⟨hreg ▸ hd.1, ?_⟩
  rw [hv]
  split
  · rfl
  · exact hd.2

/-! ### The memories of the state -/

theorem memoriesWf_iff (s : State) :
    memoriesWf s ↔ Memory.wf s.fb = true ∧ Memory.wf s.sb = true ∧ chipWf s.chip := Iff.rfl

/-- `memoriesWf` reads only these parts of the state. -/
theorem memoriesWf_congr {s t : State} (hf : t.fb = s.fb) (hs : t.sb = s.sb) (hc : t.chip = s.chip) (h : memoriesWf s) :
    memoriesWf t := by
  unfold memoriesWf
  rw [hf, hs, hc]
  exact h

theorem memoriesWf_takeBusFault {s : State} (h : memoriesWf s) : memoriesWf (takeBusFault s) := by
  obtain ⟨-, -, -, -, -, hf, hs, hc, -⟩ := takeBusFault_always s
  rw [memoriesWf_iff, hf, hs, hc]
  exact ⟨h.1, h.2.1, chipWf_unknownChip⟩

theorem memoriesWf_deliver {s : State} (w : BusWord) (h : memoriesWf s) : memoriesWf (deliver w s) :=
  ⟨h.1, h.2.1, chipWf_after h.2.2 s.cfg s.engineActive w⟩

theorem memoriesWf_sbWrite {s : State} (i : Nat) (b : Byte) (h : memoriesWf s) : memoriesWf (sbWrite s i b) :=
  ⟨h.1, sparseWf_write i b _ h.2.1, h.2.2⟩

theorem memoriesWf_microStep (m : Micro) {s : State} (h : memoriesWf s) : memoriesWf (microStep m s).final := by
  cases m with
  | bus w before after =>
    rcases busTransaction_cases w (applyMark before s) with ⟨p, hx⟩ | hx
    · simp only [microStep, hx]
      exact memoriesWf_congr rfl rfl rfl
        (memoriesWf_deliver (s := { applyMark before s with busPlan := p }) w h)
    · simp only [microStep, hx]
      exact memoriesWf_takeBusFault (s := { applyMark before s with busPlan := none }) h
  | copyByte i => exact memoriesWf_sbWrite i _ h
  | engineStart => exact ⟨h.1, h.2.1, h.2.2.1, rfl⟩

theorem keptByMicros_memoriesWf : KeptByMicros memoriesWf where
  micro m _ h := memoriesWf_microStep m h
  bump s h := memoriesWf_congr (bumpSeq_fb s) (bumpSeq_sb s) (bumpSeq_chip s) h
  release s h := memoriesWf_congr (release_fb s) (release_sb s) (release_chip s) h

theorem memoriesWf_replayInit {s : State} (h : memoriesWf s) : memoriesWf (replayInit s) := by
  have hrun : memoriesWf (runBare (initseqSteps s.cfg) { s with initDue := false }).final :=
    keptByMicros_memoriesWf.runBare _ h
  exact ⟨hrun.1, hrun.2.1, hrun.2.2⟩

/-! ### The operations that touch no memory -/

/-- The memories of the two states are the same. -/
structure SameMemories (s t : State) : Prop where
  fb : t.fb = s.fb
  sb : t.sb = s.sb
  chip : t.chip = s.chip

theorem sameMemories_acquire (k : Nat) (r : Request) (n : Nat) (s : State) : SameMemories s (acquire k r n s) := by
  rcases acquire_cases k r n s with ⟨-, -, -, e⟩ | ⟨res, e⟩ | e <;> rw [e] <;> exact ⟨rfl, rfl, rfl⟩

theorem sameMemories_tryAcquire (s : State) : SameMemories s (tryAcquire s) := by
  rcases tryAcquire_cases s with ⟨-, -, e⟩ | e <;> rw [e] <;> exact ⟨rfl, rfl, rfl⟩

theorem sameMemories_handlerDecide (v : Word) (s : State) : SameMemories s (handlerDecide v s) := by
  rcases handlerDecide_cases v s with e | ⟨-, e⟩ | e <;> rw [e] <;> exact ⟨rfl, rfl, rfl⟩

theorem sameMemories_readShadow (s : State) : SameMemories s (readShadow s) := by
  obtain ⟨v, n, e⟩ := readShadow_eq s
  rw [e]
  exact ⟨rfl, rfl, rfl⟩

theorem SameMemories.memoriesWf {s t : State} (e : SameMemories s t) (h : memoriesWf s) : memoriesWf t :=
  memoriesWf_congr e.fb e.sb e.chip h

theorem memoriesWf_follows {b q e : Prop} {s t : State} (h : memoriesWf s) (hf : Follows b q e s t) : memoriesWf t := by
  cases hf with
  | word _ w => exact keptByMicros_memoriesWf.busTransaction w h
  | bareSetcur => exact keptByMicros_memoriesWf.runBare _ h
  | bareSetwin => exact keptByMicros_memoriesWf.runBare _ h
  | bareBeginwr => exact keptByMicros_memoriesWf.runBare _ h
  | shadow => exact (sameMemories_readShadow s).memoriesWf h
  | runRequest => exact keptByMicros_memoriesWf.holderRun h
  | runMirror => exact keptByMicros_memoriesWf.holderRun h
  | copyFrame => exact keptByMicros_memoriesWf.runOperation _ h
  | oneStep => exact keptByMicros_memoriesWf.holderStep h
  | release => exact keptByMicros_memoriesWf.release s h
  | acquire k r n => exact (sameMemories_acquire k r n s).memoriesWf h
  | tryAcquire => exact (sameMemories_tryAcquire s).memoriesWf h
  | decide v => exact (sameMemories_handlerDecide v s).memoriesWf h
  | initialise => exact memoriesWf_replayInit h
  | attach w h' b n => exact memoriesWf_replayInit (s := attachReset w h' b s) ⟨h.1, rfl, chipWf_unknownChip⟩
  | detach => exact ⟨h.1, rfl, chipWf_unknownChip⟩
  | writeHost a b => exact ⟨sparseWf_write a b _ h.1, h.2⟩
  | writeStaging i b => exact memoriesWf_sbWrite i b h
  | stay | reject | latch | submit | detachWaits | enter | acknowledge | take | tick | status | busAnswers => exact h

/-- Settles O52: a step does one of the things `Follows` lists, and each keeps the form. -/
theorem memoriesWfKept : Obligations.MemoriesWfKept := by
  intro s t h hstep
  obtain ⟨rest, hf⟩ := step_follows hstep
  exact memoriesWf_follows (s := { s with input := rest }) h hf

end Sys2Proof.Machine
end

section
/-! PROOFS. What no step of the block changes: the parameters and, between `ATTACH` and `DETACH`, the configuration registers
(10_state.md R32), and host memory (20_memory.md R63). -/

namespace Sys2Proof.Machine

/-- What the device is: its parameters, the configuration registers, and what stands in host memory. -/
structure DeviceView where
  cfg : Params
  dev : Dev
  width : Nat
  height : Nat
  fbBase : Nat
  sbBase : Nat
  fb : Memory

/-- The part of the state that a step leaves alone between `ATTACH` and `DETACH`. -/
def deviceOf (s : State) : DeviceView := ⟨s.cfg, s.dev, s.width, s.height, s.fbBase, s.sbBase, s.fb⟩

theorem Untouched.deviceOf_eq {s t : State} (u : Untouched s t) : deviceOf t = deviceOf s := by
  simp [deviceOf, u.cfg, u.dev, u.width, u.height, u.fbBase, u.sbBase, u.fb]

@[simp] theorem deviceOf_takeBusFault (s : State) : deviceOf (takeBusFault s) = deviceOf s := by
  obtain ⟨-, -, -, hdev, -, hfb, -, -, hcfg, hw, hh, hbase, hsb, -⟩ := takeBusFault_always s
  simp [deviceOf, hdev, hfb, hcfg, hw, hh, hbase, hsb]

@[simp] theorem deviceOf_release (s : State) : deviceOf (release s) = deviceOf s := by simp [deviceOf]

@[simp] theorem deviceOf_bumpSeq (s : State) : deviceOf (bumpSeq s) = deviceOf s := (untouched_bumpSeq s).deviceOf_eq

theorem Ran.deviceOf_eq {s : State} {x : Run} (hx : Ran s x) : deviceOf x.final = deviceOf s := by
  rcases hx with ⟨t, rfl, u⟩ | ⟨t, rfl, u⟩
  · exact u.deviceOf_eq
  · exact (deviceOf_takeBusFault t).trans u.deviceOf_eq

theorem keptByMicros_deviceOf (s : State) : KeptByMicros fun t => deviceOf t = deviceOf s where
  micro m t h := (microStep_cases m t).deviceOf_eq.trans h
  bump t h := (deviceOf_bumpSeq t).trans h
  release t h := (deviceOf_release t).trans h

@[simp] theorem deviceOf_acquire (k : Nat) (r : Request) (n : Nat) (s : State) :
    deviceOf (acquire k r n s) = deviceOf s := by
  rcases acquire_cases k r n s with ⟨-, -, -, e⟩ | ⟨res, e⟩ | e <;> rw [e] <;> rfl

@[simp] theorem deviceOf_tryAcquire (s : State) : deviceOf (tryAcquire s) = deviceOf s := by
  rcases tryAcquire_cases s with ⟨-, -, e⟩ | e <;> rw [e] <;> rfl

@[simp] theorem deviceOf_handlerDecide (v : Word) (s : State) : deviceOf (handlerDecide v s) = deviceOf s := by
  rcases handlerDecide_cases v s with e | ⟨-, e⟩ | e <;> rw [e] <;> rfl

@[simp] theorem deviceOf_readShadow (s : State) : deviceOf (readShadow s) = deviceOf s := by
  obtain ⟨v, n, e⟩ := readShadow_eq s
  rw [e]
  rfl

@[simp] theorem deviceOf_replayInit (s : State) : deviceOf (replayInit s) = deviceOf s :=
  (runBare_cases (initseqSteps s.cfg) { s with initDue := false }).deviceOf_eq

/-- Only `ATTACH`, `DETACH` and the FrameBuffer's owner do otherwise, and they leave the parameters as they are; the first
two leave host memory as it is too. -/
theorem Follows.deviceOf_eq {b q e : Prop} {s t : State} (hf : Follows b q e s t) :
    deviceOf t = deviceOf s
      ∨ ((s.dev = .detached ∨ t.dev = .detached) ∧ t.cfg = s.cfg ∧ t.fb = s.fb)
      ∨ (e ∧ ∃ m, t = { s with fb := m }) := by
  have hmicros := keptByMicros_deviceOf s
  cases hf with
  | word _ w => exact .inl (busTransaction_ran w s).deviceOf_eq
  | bareSetcur => exact .inl (runBare_cases _ s).deviceOf_eq
  | bareSetwin => exact .inl (runBare_cases _ s).deviceOf_eq
  | bareBeginwr => exact .inl (runBare_cases _ s).deviceOf_eq
  | shadow => exact .inl (deviceOf_readShadow s)
  | runRequest => exact .inl (hmicros.holderRun rfl)
  | runMirror => exact .inl (hmicros.holderRun rfl)
  | copyFrame => exact .inl (runOperation_cases _ s).deviceOf_eq
  | oneStep => exact .inl (hmicros.holderStep rfl)
  | release => exact .inl (deviceOf_release s)
  | acquire k r n => exact .inl (deviceOf_acquire k r n s)
  | tryAcquire => exact .inl (deviceOf_tryAcquire s)
  | decide v => exact .inl (deviceOf_handlerDecide v s)
  | initialise => exact .inl (deviceOf_replayInit s)
  | attach w h b n hd =>
    have hrun := deviceOf_replayInit (attachReset w h b s)
    exact .inr (.inl ⟨.inl hd, congrArg DeviceView.cfg hrun, congrArg DeviceView.fb hrun⟩)
  | detach => exact .inr (.inl ⟨.inr rfl, rfl, rfl⟩)
  | writeHost a b he => exact .inr (.inr ⟨he, _, rfl⟩)
  | stay | reject | latch | submit | detachWaits | enter | acknowledge | take | tick | status | busAnswers
  | writeStaging => exact .inl rfl

/-- Settles O59: what a step can change of the device is `ATTACH`'s and `DETACH`'s. -/
theorem configurationIsConstant : Obligations.ConfigurationIsConstant := by
  intro s t hstep
  obtain ⟨rest, hf⟩ := step_follows hstep
  rcases hf.deviceOf_eq with h | ⟨hdev, hcfg, -⟩ | ⟨-, m, rfl⟩
  · simp only [deviceOf, DeviceView.mk.injEq] at h
    obtain ⟨hcfg, -, hw, hh, hfb, hsb, -⟩ := h
    exact ⟨hcfg, fun _ _ => ⟨hw, hh, hfb, hsb⟩⟩
  · refine ⟨hcfg, fun hs ht => ?_⟩
    rcases hdev with hd | hd
    · cases hs.symm.trans hd
    · cases ht.symm.trans hd
  · exact ⟨rfl, fun _ _ => ⟨rfl, rfl, rfl, rfl⟩⟩

/-- What the block itself does leaves host memory as it is. -/
theorem Follows.fb_eq {b q : Prop} {s t : State} (hf : Follows b q False s t) : t.fb = s.fb := by
  rcases hf.deviceOf_eq with h | ⟨-, -, h⟩ | ⟨he, -⟩
  · exact congrArg DeviceView.fb h
  · exact h
  · exact he.elim

theorem hostByte_congr {s t : State} (h : t.fb = s.fb) (a : Nat) : hostByte t a = hostByte s a := by
  unfold hostByte
  rw [h]

/-- Settles O60: an operation, and a step of an agent, is no move of the environment, which alone writes host memory. -/
theorem blockNeverWritesFrameBuffer : Obligations.BlockNeverWritesFrameBuffer := by
  refine ⟨fun i s t h => hostByte_congr (exec_follows h).fb_eq, fun s => hostByte_congr ?_, fun k s => hostByte_congr ?_⟩
  · exact (irqaStep_follows False False False s).fb_eq
  · exact (fgStep_follows False False False k s).fb_eq

end Sys2Proof.Machine
end

section
/-! PROOFS. Under `GateInv`, what a step is to the operation under way (44_requestarbiter.md R180, R188): a step aside from
it, its start, the holder's work on it, or the device's `ATTACH` or `DETACH`. -/

namespace Sys2Proof.Machine

/-! ### Steps aside from the operation under way -/

/-- What only the holder of the gate, `ATTACH` and `DETACH` change. -/
structure GuardView where
  cfg : Params
  dev : Dev
  unusable : Bool
  width : Nat
  height : Nat
  ctl : Ctl
  trace : List BusWord
  gate : Gate
  irqSeqPc : Nat
  mirrorCount : Word

/-- What the gate guards (R180), with the gate, the device and the cycle's position and count. -/
def guardOf (s : State) : GuardView :=
  ⟨s.cfg, s.dev, s.unusable, s.width, s.height, s.ctl, s.trace, s.gate, s.irqSeqPc, s.mirrorCount⟩

/-- A step from `s` to `t` that leaves alone what the gate guards and the holder's operation. -/
structure Aside (s t : State) : Prop where
  guard : guardOf t = guardOf s
  mirror : s.gate = .heldIRQ → t.mirror = s.mirror
  holder : ∀ k, s.gate = .heldFG k → t.fgs[k]? = s.fgs[k]?
  faultCount : t.faultCount = s.faultCount
    ∨ t.faultCount = s.faultCount + 1 ∧ ∃ v, s.handler = .decide v ∧ syncLoss v = true

theorem Aside.refl (s : State) : Aside s s := ⟨rfl, fun _ => rfl, fun _ _ => rfl, .inl rfl⟩

section
variable {s t : State} (h : Aside s t)
include h

theorem Aside.cfg : t.cfg = s.cfg := congrArg GuardView.cfg h.guard
theorem Aside.dev : t.dev = s.dev := congrArg GuardView.dev h.guard
theorem Aside.unusable : t.unusable = s.unusable := congrArg GuardView.unusable h.guard
theorem Aside.width : t.width = s.width := congrArg GuardView.width h.guard
theorem Aside.height : t.height = s.height := congrArg GuardView.height h.guard
theorem Aside.ctl : t.ctl = s.ctl := congrArg GuardView.ctl h.guard
theorem Aside.trace : t.trace = s.trace := congrArg GuardView.trace h.guard
theorem Aside.gate : t.gate = s.gate := congrArg GuardView.gate h.guard
theorem Aside.irqSeqPc : t.irqSeqPc = s.irqSeqPc := congrArg GuardView.irqSeqPc h.guard
theorem Aside.mirrorCount : t.mirrorCount = s.mirrorCount := congrArg GuardView.mirrorCount h.guard

/-- The holder has the same micro-steps left. -/
theorem Aside.holderRest : holderRest t = holderRest s := by
  cases hg : s.gate with
  | free => simp only [Machine.holderRest, h.gate, hg]
  | heldFG k =>
    simp only [Machine.holderRest, h.gate, hg, requestRest, slotOf, seqPcOf, h.holder k hg, h.cfg, h.width, h.height]
  | heldIRQ => simp only [Machine.holderRest, h.gate, hg, mirrorRest, h.mirror hg, h.irqSeqPc, h.cfg, h.width, h.height]

theorem Aside.setsWindow : setsWindow t = setsWindow s := by
  cases hg : s.gate with
  | free => simp only [Machine.setsWindow, h.gate, hg]
  | heldFG k =>
    simp only [Machine.setsWindow, h.gate, hg, slotOf, h.holder k hg]
  | heldIRQ => simp only [Machine.setsWindow, h.gate, hg]

end

/-- A step that changes no foreground agent and nothing of the mirror cycle. -/
theorem Aside.of_guard {s t : State} (hg : guardOf t = guardOf s) (hm : t.mirror = s.mirror) (hf : t.fgs = s.fgs)
    (hc : t.faultCount = s.faultCount) : Aside s t :=
  ⟨hg, fun _ => hm, fun _ _ => by rw [hf], .inl hc⟩

/-- The slot of an agent that runs nothing changes: the holder's is another. -/
theorem Aside.setSlot {s : State} (hinv : GateInv s) {k : Nat} {v : Slot} (hs : slotOf s k = some v)
    (hv : ∀ r, v ≠ .running r) (w : Slot) : Aside s (setSlot k w s) := by
  refine ⟨rfl, fun _ => rfl, fun j hj => ?_, .inl rfl⟩
  have hne : k ≠ j := by
    rintro rfl
    obtain ⟨r, hr⟩ := (hinv.runningIff k).2 hj
    exact hv r (Option.some.inj (hs.symm.trans hr))
  simp [hne]

theorem Aside.readShadow (s : State) : Aside s (readShadow s) := by
  obtain ⟨v, n, e⟩ := readShadow_eq s
  rw [e]
  exact .of_guard rfl rfl rfl rfl

/-- The handler returns outside the mirror cycle. -/
theorem Aside.handlerReturn {s : State} (hne : s.gate ≠ .heldIRQ) : Aside s (handlerReturn s) :=
  ⟨rfl, fun hg => absurd hg hne, fun _ _ => rfl, .inl rfl⟩

theorem Aside.handlerDecide {s : State} (hinv : GateInv s) {v : Word} (hh : s.handler = .decide v) :
    Aside s (handlerDecide v s) := by
  have hne : s.gate ≠ .heldIRQ := hinv.not_heldIRQ (by simp [hh])
  rcases handlerDecide_cases v s with e | ⟨hv, e⟩ | e <;> rw [e]
  · exact .handlerReturn hne
  · exact ⟨rfl, fun hg => absurd hg hne, fun _ _ => rfl, .inr ⟨rfl, v, hh, hv⟩⟩
  · exact .of_guard rfl rfl rfl rfl

/-- A `Tick` lets waiting slots alone go on (R185). -/
theorem Aside.tickAll {s : State} (hinv : GateInv s) : Aside s (tickAll s) := by
  refine ⟨rfl, fun _ => rfl, fun k hk => ?_, .inl rfl⟩
  obtain ⟨r, hr⟩ := (hinv.runningIff k).2 hk
  rw [slotOf_eq_some hr, tickAll_fgs, List.getElem?_map, slotOf_eq_some hr]
  rfl

/-! ### The holder's work -/

/-- A micro-step that records nothing of the window. -/
def LeavesWindow : Micro → Prop
  | .bus _ before after =>
    before ≠ .windowOpens ∧ after ≠ .windowOpens ∧ (∀ x0 x1 y0 y1, before ≠ .windowSet x0 x1 y0 y1)
      ∧ ∀ x0 x1 y0 y1, after ≠ .windowSet x0 x1 y0 y1
  | .copyByte _ => True
  | .engineStart => True

theorem leavesWindow_plain (w : BusWord) : LeavesWindow (plain w) := by simp [LeavesWindow, plain]

theorem leavesWindow_setcur (x y : Half) : ∀ m ∈ setcurSteps x y, LeavesWindow m := by
  simp [setcurSteps, regw, plain, LeavesWindow]

theorem leavesWindow_beginwr (p : Params) : ∀ m ∈ beginwrSteps p, LeavesWindow m := by
  simp [beginwrSteps, LeavesWindow]

theorem runBare_plain (w : BusWord) (s : State) : runBare [plain w] s = busTransaction w s := by
  simp only [runBare, runMicros, microStep_plain]
  cases busTransaction w s <;> rfl

/-- What a step is to the operation under way; `beside` and `setwin` as in `Follows`. -/
inductive Advance (beside setwin : Prop) (s : State) : State → Prop where
  | aside {t : State} (h : Aside s t) : Advance beside setwin s t
  | startRequest (k : Nat) (r : Request) (hd : s.dev = .attached) (hu : s.unusable = false) (hg : s.gate = .free)
    (hv : validRequest s.width s.height r = true) (hk : (slotOf s k).isSome) :
    Advance beside setwin s (setSeqPc k 0 (setSlot k (.running r) { s with gate := .heldFG k }))
  | startCycle (hd : s.dev = .attached) (hu : s.unusable = false) (hg : s.gate = .free) :
    Advance beside setwin s { s with gate := .heldIRQ, irqSeqPc := 0, mirror := .mirroring, handler := .cycle }
  | bare (hb : beside) (ms : List Micro) (hw : setwin ∨ ∀ m ∈ ms, LeavesWindow m) (hg : s.gate ≠ .free) :
    Advance beside setwin s (runBare ms s).final
  | part (ms ns : List Micro) (hr : holderRest s = some (ms ++ ns)) :
    Advance beside setwin s (runOperation ms s).final
  | whole (ms : List Micro) (hr : holderRest s = some ms) :
    Advance beside setwin s (complete (runOperation ms s))
  | attach (w h b n : Nat) (hd : s.dev = .detached) (ha : attachAccepts w h n = true) :
    Advance beside setwin s (replayInit (attachReset w h b s))
  | detach : Advance beside setwin s (detachNow s)

theorem advance_holderRun {b q : Prop} (s : State) : Advance b q s (holderRun s) := by
  unfold holderRun
  cases hr : holderRest s with
  | none => exact .aside (.refl s)
  | some ms => exact .whole ms hr

/-- One step of the holder's operation is its first micro-step run and counted (R26). -/
theorem holderStep_of_rest {s : State} {m : Micro} {ns : List Micro} (hr : holderRest s = some (m :: ns)) :
    holderStep s = (runOperation [m] s).final := by
  simp only [holderStep, hr, runOperation, runMicros]
  cases microStep m s <;> rfl

/-- After the last micro-step the holder's step is the completion (R183). -/
theorem holderStep_of_done {s : State} (hr : holderRest s = some []) : holderStep s = release s := by
  simp only [holderStep, hr]

theorem advance_holderStep {b q : Prop} (s : State) : Advance b q s (holderStep s) := by
  cases hr : holderRest s with
  | none =>
    have e : holderStep s = s := by simp only [holderStep, hr]
    exact e.symm ▸ .aside (.refl s)
  | some ms =>
    cases ms with
    | nil => exact holderStep_of_done hr ▸ .whole [] hr
    | cons m ns => exact holderStep_of_rest hr ▸ .part [m] ns hr

theorem advance_acquire {b q : Prop} {s : State} (hinv : GateInv s) {k : Nat} {r : Request} {n : Nat}
    (hs : slotOf s k = some (.waiting r n)) : Advance b q s (acquire k r n s) := by
  rcases acquire_cases k r n s with ⟨hd, hu, hg, e⟩ | ⟨res, e⟩ | e <;> rw [e]
  · exact .startRequest k r hd hu hg (hinv.admitted k r (.inr ⟨n, hs⟩)) (by simp [hs])
  · exact .aside (.setSlot hinv hs (by simp) _)
  · exact .aside (.refl s)

theorem advance_tryAcquire {b q : Prop} {s : State} (hinv : GateInv s) (hd : s.dev = .attached)
    (hh : s.handler = .tryAcq) : Advance b q s (tryAcquire s) := by
  rcases tryAcquire_cases s with ⟨hg, hu, e⟩ | e <;> rw [e]
  · exact .startCycle hd hu hg
  · exact .aside (.handlerReturn (hinv.not_heldIRQ (by simp [hh])))

/-- The frame copy is the first part of the cycle's micro-steps (R165, R166). -/
theorem holderRest_at_start {s : State} (hg : s.gate = .heldIRQ) (hm : s.mirror = .mirroring) (hi : s.irqSeqPc = 0) :
    holderRest s = some (copyframeSteps s.width s.height ++ mirrorTail s.cfg s.width s.height) := by
  rw [holderRest_of_mirroring hg hm, mirrorRest, hi, List.drop_zero, mirrorSteps_eq]

theorem Follows.advance {b q e : Prop} {s t : State} (hinv : GateInv s) (hf : Follows b q e s t) : Advance b q s t := by
  cases hf with
  | word hb w _ hg =>
    rw [← runBare_plain]
    exact .bare hb _ (.inr (by simpa using leavesWindow_plain w)) hg
  | bareSetcur hb x y _ hg => exact .bare hb _ (.inr (leavesWindow_setcur x y)) hg
  | bareSetwin hb x0 x1 y0 y1 hs _ hg => exact .bare hb _ (.inl hs) hg
  | bareBeginwr hb _ hg => exact .bare hb _ (.inr (leavesWindow_beginwr s.cfg)) hg
  | shadow => exact .aside (.readShadow s)
  | runRequest => exact advance_holderRun s
  | runMirror => exact advance_holderRun s
  | copyFrame _ hg hm hi => exact .part _ _ (holderRest_at_start hg hm hi)
  | oneStep => exact advance_holderStep s
  | release hr => exact .whole [] hr
  | reject k r _ _ hs hv =>
    have hvalid := hinv.admitted k r (.inl hs)
    rw [hv] at hvalid
    cases hvalid
  | acquire k r n hs => exact advance_acquire hinv hs
  | tryAcquire hd hh => exact advance_tryAcquire hinv hd hh
  | submit k d hs => exact .aside (.setSlot hinv hs (by simp) _)
  | initialise _ hi => exact absurd hi hinv.not_initDue
  | attach w h b n hd ha => exact .attach w h b n hd ha
  | detach => exact .detach
  | decide v _ hh => exact .aside (.handlerDecide hinv hh)
  | take k res _ hs =>
    exact .aside ⟨rfl, fun _ => rfl, (Aside.setSlot hinv hs (by simp) .empty).holder, .inl rfl⟩
  | tick => exact .aside (.tickAll hinv)
  | stay | latch | detachWaits | enter | acknowledge | status | busAnswers | writeHost | writeStaging =>
    exact .aside (.of_guard rfl rfl rfl rfl)

/-- A step, once the entry of the input is taken away, under `GateInv`. -/
theorem step_advance {s t : State} (hinv : GateInv s) (h : step s = .next t) :
    ∃ rest, Advance (¬ onlyTheList s) (¬ noBareSetwin s) { s with input := rest } t := by
  obtain ⟨rest, hf⟩ := step_follows h
  exact ⟨rest, hf.advance (hinv.withInput rest)⟩

/-! ### Nobody holds the gate, or the device is unusable -/

/-- With the gate free only the start of an operation is the holder's. -/
theorem Advance.of_free {b q : Prop} {s t : State} (h : Advance b q s t) (hd : s.dev = .attached) (hg : s.gate = .free) :
    t.trace = s.trace ∧ (t.ctl = s.ctl ∨ t.dev = .detached) := by
  cases h with
  | aside h => exact ⟨h.trace, .inl h.ctl⟩
  | startRequest => exact ⟨rfl, .inl rfl⟩
  | startCycle => exact ⟨rfl, .inl rfl⟩
  | bare _ _ _ hne => exact absurd hg hne
  | part _ _ hr => exact absurd hg (gate_ne_free_of_rest hr)
  | whole _ hr => exact absurd hg (gate_ne_free_of_rest hr)
  | attach _ _ _ _ hdet => cases hd.symm.trans hdet
  | detach => exact ⟨rfl, .inr rfl⟩

/-- Without a holder an operation of the holder stops by name (log entry 16). -/
theorem byHolder_free (f : State → State) {s : State} (hg : s.gate = .free) :
    byHolder f s = .fault (if s.dev = .detached then .notAttached else .notHolder) := by
  unfold byHolder
  split <;> simp [hg]

/-- Settles O10: the operations stop by name, and a step with the gate free starts an operation at most. -/
theorem onlyTheHolderUsesTheBus : Obligations.OnlyTheHolderUsesTheBus := by
  refine ⟨fun s a x y x1 y1 hg i hi => ?_, fun s t hinv hd hg hstep => ?_⟩
  · simp only [List.mem_cons, List.not_mem_nil, or_false] at hi
    rcases hi with rfl | rfl | rfl | rfl | rfl | rfl <;>
      simp only [exec, execWcmd, execWdat, execRdat, execSetcur, execSetwin, execBeginwr, byHolder_free _ hg]
  · obtain ⟨rest, h⟩ := step_advance hinv hstep
    exact h.of_free hd hg

/-- Settles O57: an unusable device has no holder, and nobody acquires the gate of one. -/
theorem unusableUntilReattach : Obligations.UnusableUntilReattach := by
  intro s t hinv hd hu hstep
  have hg : s.gate = .free := hinv.unusableFree hu
  obtain ⟨rest, h⟩ := step_advance hinv hstep
  refine ⟨(h.of_free hd hg).1, ?_⟩
  cases h with
  | aside h => exact ⟨h.gate.trans hg, .inl (h.unusable.trans hu)⟩
  | startRequest k r _ hu' => cases hu.symm.trans hu'
  | startCycle _ hu' => cases hu.symm.trans hu'
  | bare _ _ _ hne => exact absurd hg hne
  | part _ _ hr => exact absurd hg (gate_ne_free_of_rest hr)
  | whole _ hr => exact absurd hg (gate_ne_free_of_rest hr)
  | attach _ _ _ _ hdet => cases hd.symm.trans hdet
  | detach => exact ⟨rfl, .inr rfl⟩

/-! ### The counters -/

/-- A BusFault counts where `IRQA` holds the gate, and nowhere else (R214). -/
theorem takeBusFault_faultCount (s : State) :
    (takeBusFault s).faultCount = s.faultCount ∨ (takeBusFault s).faultCount = s.faultCount + 1 ∧ s.gate = .heldIRQ := by
  cases hg : s.gate with
  | free => exact .inl (by rw [takeBusFault_free hg]; rfl)
  | heldFG k => exact .inl (by rw [takeBusFault_fg hg]; rfl)
  | heldIRQ => exact .inr ⟨by rw [takeBusFault_irq hg]; rfl, rfl⟩

/-- The release counts a cycle where `IRQA` holds the gate, and nothing else (R168). -/
theorem release_mirrorCount (s : State) :
    (release s).mirrorCount = s.mirrorCount ∨ (release s).mirrorCount = s.mirrorCount + 1 ∧ s.gate = .heldIRQ := by
  cases hg : s.gate with
  | free => exact .inl (by simp [release, hg])
  | heldFG k => exact .inl (by rw [release_fg hg]; rfl)
  | heldIRQ => exact .inr ⟨by rw [release_irq hg]; rfl, rfl⟩

/-- What O58 says of the two counters (R30). -/
def CountsEvents (s t : State) : Prop :=
  (t.mirrorCount = s.mirrorCount
    ∨ t.mirrorCount = s.mirrorCount + 1 ∧ s.gate = .heldIRQ ∧ t.gate = .free ∧ t.unusable = false)
  ∧ (t.faultCount = s.faultCount
    ∨ t.faultCount = s.faultCount + 1
      ∧ ((∃ v, s.handler = .decide v ∧ syncLoss v = true) ∨ s.gate = .heldIRQ ∧ t.unusable = true))

theorem countsEvents_takeBusFault {s t : State} (u : Untouched s t) : CountsEvents s (takeBusFault t) := by
  obtain ⟨-, hun, -, -, -, -, -, -, -, -, -, -, -, -, hm⟩ := takeBusFault_always t
  refine ⟨.inl (hm.trans u.mirrorCount), ?_⟩
  rcases takeBusFault_faultCount t with h | ⟨h, hg⟩
  · exact .inl (h.trans u.faultCount)
  · exact .inr ⟨by rw [h, u.faultCount], .inr ⟨u.gate ▸ hg, hun⟩⟩

/-- A run of micro-steps counts a fault at most. -/
theorem Ran.countsEvents {s : State} {x : Run} (hx : Ran s x) : CountsEvents s x.final := by
  rcases hx with ⟨t, rfl, u⟩ | ⟨t, rfl, u⟩
  · exact ⟨.inl u.mirrorCount, .inl u.faultCount⟩
  · exact countsEvents_takeBusFault u

theorem countsEvents_complete {s : State} (hu : s.unusable = false) {x : Run} (hx : Ran s x) :
    CountsEvents s (complete x) := by
  rcases hx with ⟨t, rfl, u⟩ | ⟨t, rfl, u⟩
  · refine ⟨?_, .inl ((release_faultCount t).trans u.faultCount)⟩
    rcases release_mirrorCount t with h | ⟨h, hg⟩
    · exact .inl (h.trans u.mirrorCount)
    · exact .inr ⟨by rw [complete, h, u.mirrorCount], u.gate ▸ hg, release_gate t,
        (release_unusable t).trans (u.unusable.trans hu)⟩
  · exact countsEvents_takeBusFault u

/-- An unusable device has no holder, so a holder's device is usable. -/
theorem GateInv.usable_of_rest {s : State} (h : GateInv s) {ms : List Micro} (hr : holderRest s = some ms) :
    s.unusable = false := by
  cases hu : s.unusable with
  | false => rfl
  | true => exact absurd (h.unusableFree hu) (gate_ne_free_of_rest hr)

/-- Settles O58: a step aside counts a SyncLoss at most, the holder's work a fault, its completion a cycle. -/
theorem countersCountOnlyTheirEvents : Obligations.CountersCountOnlyTheirEvents := by
  intro s t hinv hd ht hstep
  obtain ⟨rest, h⟩ := step_advance hinv hstep
  show CountsEvents { s with input := rest } t
  cases h with
  | aside h => exact ⟨.inl h.mirrorCount, h.faultCount.imp_right fun ⟨e, hv⟩ => ⟨e, .inl hv⟩⟩
  | startRequest => exact ⟨.inl rfl, .inl rfl⟩
  | startCycle => exact ⟨.inl rfl, .inl rfl⟩
  | bare => exact (runBare_cases _ _).countsEvents
  | part => exact (runOperation_cases _ _).countsEvents
  | whole _ hr => exact countsEvents_complete ((hinv.withInput rest).usable_of_rest hr) (runOperation_cases _ _)
  | attach _ _ _ _ hdet => cases hd.symm.trans hdet
  | detach => cases ht

/-! ### The holder excludes the others -/

/-- A gate that is held is not taken: `ACQ` waits or ends with a result. -/
theorem aside_acquire {s : State} (hinv : GateInv s) (hne : s.gate ≠ .free) {k : Nat} {r : Request} {n : Nat}
    (hs : slotOf s k = some (.waiting r n)) : Aside s (acquire k r n s) := by
  rcases acquire_cases k r n s with ⟨-, -, hg, -⟩ | ⟨res, e⟩ | e
  · exact absurd hg hne
  · exact e ▸ .setSlot hinv hs (by simp) _
  · exact e.symm ▸ .refl s

theorem aside_tryAcquire {s : State} (hinv : GateInv s) (hne : s.gate ≠ .free) (hh : s.handler = .tryAcq) :
    Aside s (tryAcquire s) := by
  rcases tryAcquire_cases s with ⟨hg, -, -⟩ | e
  · exact absurd hg hne
  · exact e ▸ .handlerReturn (hinv.not_heldIRQ (by simp [hh]))

/-- `IRQA` holds no gate outside the mirror cycle, and its handler leaves a foreground holder alone. -/
theorem aside_irqaStep {s : State} (hinv : GateInv s) {k : Nat} (hg : s.gate = .heldFG k) : Aside s (irqaStep s) := by
  have hne : s.gate ≠ .free := by simp [hg]
  unfold irqaStep
  split
  · exact .refl s
  · split
    · split
      · exact .of_guard rfl rfl rfl rfl
      · exact .refl s
    · exact .of_guard rfl rfl rfl rfl
    · exact .handlerDecide hinv ‹_›
    · exact aside_tryAcquire hinv hne ‹_›
    · rw [if_neg (by simp [hg])]
      exact .refl s

/-- A foreground agent that is not the holder leaves the holder alone. -/
theorem aside_fgStep {s : State} (hinv : GateInv s) (hne : s.gate ≠ .free) {k : Nat} (hk : s.gate ≠ .heldFG k) :
    Aside s (fgStep k s) := by
  unfold fgStep
  split
  · exact aside_acquire hinv hne ‹_›
  · rw [if_neg hk]
    exact .refl s
  · exact .refl s

theorem aside_takeResult {s : State} (hinv : GateInv s) (k : Nat) : Aside s (takeResult k s) := by
  unfold takeResult
  split
  · exact ⟨rfl, fun _ => rfl, (Aside.setSlot hinv ‹_› (by simp) .empty).holder, .inl rfl⟩
  · exact .refl s

/-- While somebody holds the gate, no move but the holder's own touches the operation under way. -/
theorem aside_moveStep {s t : State} (hinv : GateInv s) (hne : s.gate ≠ .free) {m : Move}
    (hirqa : m = .irqa → s.gate ≠ .heldIRQ) (hfg : ∀ k, m = .fg k → s.gate ≠ .heldFG k)
    (h : moveStep m s = .next t) : Aside s t := by
  cases m with
  | irqa =>
    cases h
    cases hg : s.gate with
    | free => exact absurd hg hne
    | heldFG k => exact aside_irqaStep hinv hg
    | heldIRQ => exact absurd hg (hirqa rfl)
  | fg k => cases h; exact aside_fgStep hinv hne (hfg k rfl)
  | host =>
    have hoff : detachEnabled s = false := by simp [detachEnabled, hne]
    cases h
    simp only [hostStep, hoff, Bool.and_false, Bool.false_eq_true, if_false]
    exact .refl s
  | take k => cases h; exact aside_takeResult hinv k
  | tick => cases h; exact .tickAll hinv
  | status v => cases h; exact .of_guard rfl rfl rfl rfl
  | busPlan n => cases h; exact .of_guard rfl rfl rfl rfl
  | fbWrite a b => cases h; exact .of_guard rfl rfl rfl rfl
  | sbWrite i b =>
    simp only [moveStep] at h
    split at h <;> cases h
    exact .of_guard rfl rfl rfl rfl

/-- While somebody holds the gate, no operation that others present touches the operation under way. -/
theorem aside_exec {s t : State} (hinv : GateInv s) (hne : s.gate ≠ .free) {i : Instr} (hi : ofTheHolder i = false)
    (h : exec i s = .next t) : Aside s t := by
  cases i <;> simp only [ofTheHolder, Bool.true_eq_false] at hi
  case irq =>
    simp only [exec, execIrq] at h
    split at h <;> cases h
    · exact .of_guard rfl rfl rfl rfl
    · exact .refl s
  case acq k =>
    simp only [exec, execAcq] at h
    split at h <;> cases h
    exact aside_acquire hinv hne ‹_›
  case tryacq =>
    simp only [exec, execTryacq] at h
    split at h <;> cases h
    rename_i hc
    exact aside_tryAcquire hinv hne hc.2
  case submit k d =>
    simp only [exec, execSubmit] at h
    split at h <;> cases h
    exact .setSlot hinv ‹_› (by simp) _
  case attach w h' b n =>
    have hd : s.dev = .attached := attached_of_ne fun hd => hne (hinv.detachedIdle hd).1
    simp [exec, execAttach, hd] at h
  case initseq => simp [exec, execInitseq, hinv.attachDone] at h
  case detach =>
    have hoff : detachEnabled s = false := by simp [detachEnabled, hne]
    simp only [exec, execDetach, hoff, Bool.false_eq_true, if_false] at h
    split at h <;> cases h
    exact .of_guard rfl rfl rfl rfl

theorem byAnother.aside {s t : State} {own : Move} (hinv : GateInv s) (hne : s.gate ≠ .free)
    (hirqa : own ≠ .irqa → s.gate ≠ .heldIRQ) (hfg : ∀ k, own ≠ .fg k → s.gate ≠ .heldFG k) (h : byAnother own s t) :
    Aside s t := by
  rcases h with ⟨m, hm, h⟩ | ⟨i, hi, h⟩
  · exact aside_moveStep hinv hne (fun e => hirqa (e ▸ hm.symm)) (fun k e => hfg k (e ▸ hm.symm)) h
  · exact aside_exec hinv hne hi h

/-- Settles O55: whatever is not the holder's own is aside from its operation. -/
theorem holderExcludesOthers : Obligations.HolderExcludesOthers := by
  intro s t hinv
  refine ⟨fun k hg h => ?_, fun hg h => ?_⟩
  · have a := h.aside hinv (by simp [hg]) (by simp [hg]) (fun j hj => by rw [hg]; simpa using hj)
    exact ⟨a.trace, a.ctl, a.gate, a.holder k hg, a.mirrorCount⟩
  · have a := h.aside hinv (by simp [hg]) (by simp) (by simp [hg])
    exact ⟨a.trace, a.ctl, a.gate, a.irqSeqPc, a.mirrorCount⟩

end Sys2Proof.Machine
end

section
/-! PROOFS. The operation under way while its holder works on it, and the window it leaves (10_state.md R40 items 4 and 5):
a trusted window is on the screen, and with restoring blits it is the full screen when the operation is over. -/

namespace Sys2Proof.Machine

/-! ### The rest of the operation after a part of it -/

theorem drop_succ_of_drop_eq_cons {α : Type} {l ns : List α} {n : Nat} {m : α} (h : l.drop n = m :: ns) :
    l.drop (n + 1) = ns := by
  rw [← List.tail_drop, h, List.tail_cons]

/-- A completed and counted micro-step leaves the holder the rest (R26). -/
theorem holderRest_bumpSeq {s t : State} {m : Micro} {ns : List Micro} (hr : holderRest s = some (m :: ns))
    (ht : microStep m s = .ok t) (hu : Untouched s t) : holderRest (bumpSeq t) = some ns := by
  obtain ⟨hfgs, hpc⟩ := microStep_positions ht
  cases hg : s.gate with
  | free => exact absurd hg (gate_ne_free_of_rest hr)
  | heldIRQ =>
    have hgt : t.gate = .heldIRQ := hu.gate.trans hg
    have hm : s.mirror = .mirroring := by
      by_contra hm
      simp [holderRest, hg, hm] at hr
    rw [holderRest_of_mirroring hg hm, Option.some.injEq, mirrorRest] at hr
    simp [holderRest, bumpSeq, hgt, hu.mirror, hm, mirrorRest, hpc, hu.cfg, hu.width, hu.height,
      drop_succ_of_drop_eq_cons hr]
  | heldFG k =>
    have hgt : t.gate = .heldFG k := hu.gate.trans hg
    simp only [holderRest, hg] at hr
    split at hr
    · rename_i r hs
      rw [Option.some.injEq, requestRest] at hr
      have hs' : slotOf (bumpSeq t) k = some (.running r) := by rw [slotOf_bumpSeq, hu.slots, hs]
      have hseq : seqPcOf (bumpSeq t) k = seqPcOf s k + 1 := by
        obtain ⟨n, hn⟩ : ∃ n, s.fgs[k]? = some ⟨.running r, n⟩ := ⟨_, slotOf_eq_some hs⟩
        simp [seqPcOf, bumpSeq, hgt, hfgs, hn]
      have hub := untouched_bumpSeq t
      simp only [holderRest, hub.gate, hgt, hs', requestRest, hseq, hub.cfg, hub.width, hub.height, hu.cfg, hu.width,
        hu.height, drop_succ_of_drop_eq_cons hr]
    · cases hr

/-- A part of the holder's operation: it runs to its end, and the rest is what stood behind it; or the BusFault is taken. -/
theorem runOperation_part {ms ns : List Micro} {s : State} (hr : holderRest s = some (ms ++ ns)) :
    (∃ t, runOperation ms s = .ok t ∧ Untouched s t ∧ t.ctl = stepsCtl s.cfg ms s.ctl ∧ holderRest t = some ns)
      ∨ ∃ t, runOperation ms s = .error (takeBusFault t) ∧ Untouched s t := by
  induction ms generalizing s with
  | nil => exact .inl ⟨s, rfl, .refl s, rfl, hr⟩
  | cons m ms ih =>
    rcases microStep_cases m s with ⟨t, ht, hu⟩ | ⟨t, ht, hu⟩
    · have hub := hu.trans (untouched_bumpSeq t)
      have hrun : runOperation (m :: ms) s = runOperation ms (bumpSeq t) := by simp only [runOperation, runMicros, ht]
      rcases ih (holderRest_bumpSeq hr ht hu) with ⟨u, e, huu, hctl, hrest⟩ | ⟨u, e, huu⟩
      · refine .inl ⟨u, hrun.trans e, hub.trans huu, ?_, hrest⟩
        rw [hctl, hub.cfg, bumpSeq_ctl, microStep_ctl ht]
        rfl
      · exact .inr ⟨u, hrun.trans e, hub.trans huu⟩
    · exact .inr ⟨t, by simp only [runOperation, runMicros, ht], hu⟩

theorem runOperation_ctl (ms : List Micro) (s : State) :
    (∃ t, runOperation ms s = .ok t ∧ Untouched s t ∧ t.ctl = stepsCtl s.cfg ms s.ctl)
      ∨ ∃ t, runOperation ms s = .error (takeBusFault t) ∧ Untouched s t :=
  runMicros_ctl bumpSeq untouched_bumpSeq bumpSeq_ctl ms s

theorem holderRest_of_free {s : State} (hg : s.gate = .free) : holderRest s = none := by simp only [holderRest, hg]

/-! ### The recorded window, as micro-steps change it -/

/-- The recorded window and whether it is trusted (R22, R24). -/
structure WindowView where
  x0 : Half
  x1 : Half
  y0 : Half
  y1 : Half
  valid : Bool

/-- The window recorded in the registers and flags. -/
def windowOf (c : Ctl) : WindowView := ⟨c.winX0, c.winX1, c.winY0, c.winY1, c.winValid⟩

/-- A transaction records no window. -/
@[simp] theorem windowOf_wordCtl (p : Params) (w : BusWord) (c : Ctl) : windowOf (wordCtl p w c) = windowOf c := by
  obtain ⟨sel, v⟩ := w
  cases sel <;> rfl

/-- What a mark makes of the recorded window. -/
def markWindow : Mark → WindowView → WindowView
  | .windowOpens, v => { v with valid := false }
  | .windowSet x0 x1 y0 y1, _ => ⟨x0, x1, y0, y1, true⟩
  | .none, v => v
  | .cursorOpens, v => v
  | .cursorSet _ _, v => v
  | .armed, v => v

@[simp] theorem windowOf_markCtl (m : Mark) (c : Ctl) : windowOf (markCtl m c) = markWindow m (windowOf c) := by
  cases m <;> rfl

/-- What a micro-step makes of the recorded window. -/
def microWindow (v : WindowView) : Micro → WindowView
  | .bus _ before after => markWindow after (markWindow before v)
  | .copyByte _ => v
  | .engineStart => v

theorem windowOf_microCtl (p : Params) (c : Ctl) (m : Micro) : windowOf (microCtl p c m) = microWindow (windowOf c) m := by
  cases m with
  | bus w before after => simp [microCtl, microWindow]
  | copyByte i => rfl
  | engineStart => rfl

/-- What a list of micro-steps makes of the recorded window. -/
def stepsWindow (ms : List Micro) (v : WindowView) : WindowView := ms.foldl microWindow v

theorem windowOf_stepsCtl (p : Params) (ms : List Micro) (c : Ctl) :
    windowOf (stepsCtl p ms c) = stepsWindow ms (windowOf c) := by
  induction ms generalizing c with
  | nil => rfl
  | cons m ms ih => exact (ih (microCtl p c m)).trans (congrArg (stepsWindow ms) (windowOf_microCtl p c m))

theorem stepsWindow_append (ms ns : List Micro) (v : WindowView) :
    stepsWindow (ms ++ ns) v = stepsWindow ns (stepsWindow ms v) := List.foldl_append

theorem microWindow_of_leaves {m : Micro} (h : LeavesWindow m) (v : WindowView) : microWindow v m = v := by
  cases m with
  | bus w before after =>
    obtain ⟨hbo, hao, hbs, has⟩ := h
    have hstays : ∀ a : Mark, a ≠ .windowOpens → (∀ x0 x1 y0 y1, a ≠ .windowSet x0 x1 y0 y1) → ∀ v, markWindow a v = v :=
      fun a ho hs v => by
        cases a with
        | windowOpens => exact absurd rfl ho
        | windowSet x0 x1 y0 y1 => exact absurd rfl (hs x0 x1 y0 y1)
        | none | cursorOpens | cursorSet | armed => rfl
    rw [microWindow, hstays before hbo hbs, hstays after hao has]
  | copyByte i => rfl
  | engineStart => rfl

theorem stepsWindow_of_leaves {ms : List Micro} (h : ∀ m ∈ ms, LeavesWindow m) (v : WindowView) : stepsWindow ms v = v := by
  induction ms with
  | nil => rfl
  | cons m ms ih =>
    show stepsWindow ms (microWindow v m) = v
    rw [microWindow_of_leaves (h m (by simp)), ih fun m hm => h m (by simp [hm])]

@[simp] theorem stepsWindow_setwin (p : Params) (x0 x1 y0 y1 : Half) (v : WindowView) :
    stepsWindow (setwinSteps p x0 x1 y0 y1) v = ⟨x0, x1, y0, y1, true⟩ := rfl

@[simp] theorem stepsWindow_setcur (x y : Half) (v : WindowView) : stepsWindow (setcurSteps x y) v = v :=
  stepsWindow_of_leaves (leavesWindow_setcur x y) v

@[simp] theorem stepsWindow_beginwr (p : Params) (v : WindowView) : stepsWindow (beginwrSteps p) v = v :=
  stepsWindow_of_leaves (leavesWindow_beginwr p) v

theorem leavesWindow_burst (vs : List Half) : ∀ m ∈ burst vs, LeavesWindow m := by
  simp [burst, leavesWindow_plain]

theorem leavesWindow_flatMap_regw {α : Type} (f g : α → Half) (l : List α) :
    ∀ m ∈ l.flatMap fun a => regw (f a) (g a), LeavesWindow m := by
  simp only [List.mem_flatMap, regw, List.mem_cons, List.not_mem_nil, or_false]
  rintro m ⟨a, -, rfl | rfl⟩ <;> exact leavesWindow_plain _

theorem leavesWindow_copyframe (w h : Nat) : ∀ m ∈ copyframeSteps w h, LeavesWindow m := by
  simp [copyframeSteps, LeavesWindow]

theorem leavesWindow_initseq (p : Params) : ∀ m ∈ initseqSteps p, LeavesWindow m := leavesWindow_flatMap_regw _ _ _

@[simp] theorem stepsWindow_burst (vs : List Half) (v : WindowView) : stepsWindow (burst vs) v = v :=
  stepsWindow_of_leaves (leavesWindow_burst vs) v

theorem leavesWindow_textrun (p : Params) (x y c : Half) (bytes : List Byte) :
    ∀ m ∈ textrunSteps p x y c bytes, LeavesWindow m := by
  simp only [textrunSteps, List.mem_append]
  rintro m (((hm | hm) | hm) | hm)
  · exact leavesWindow_flatMap_regw _ _ _ m hm
  · exact leavesWindow_setcur x y m hm
  · exact leavesWindow_beginwr p m hm
  · exact leavesWindow_burst _ m hm

/-- The initialisation ends with the recorded window as it was, or with a BusFault, which trusts none (R196, R197). -/
theorem windowOf_replayInit (s : State) :
    windowOf (replayInit s).ctl = windowOf s.ctl ∨ (replayInit s).ctl.winValid = false := by
  rcases replayInit_cases s with ⟨t, e, -, hc⟩ | ⟨t, e, -⟩
  · left
    rw [e]
    show windowOf t.ctl = _
    rw [hc, windowOf_stepsCtl, stepsWindow_of_leaves (leavesWindow_initseq s.cfg)]
  · right
    rw [e, takeBusFault_ctl]
    rfl

theorem winValid_replayInit {s : State} (h : s.ctl.winValid = false) : (replayInit s).ctl.winValid = false :=
  (windowOf_replayInit s).elim (fun e => (congrArg WindowView.valid e).trans h) id

theorem winValid_takeBusFault (s : State) : (takeBusFault s).ctl.winValid = false := by
  rw [takeBusFault_ctl]
  rfl

/-! ### A trusted window is on the screen -/

/-- The window is ordered and on a screen of `w` by `h` whenever it is trusted (R40 item 5). -/
def OnScreen (w h : Nat) (v : WindowView) : Prop :=
  v.valid = true → v.x0.toNat ≤ v.x1.toNat ∧ v.x1.toNat ≤ w - 1 ∧ v.y0.toNat ≤ v.y1.toNat ∧ v.y1.toNat ≤ h - 1

theorem windowBounds_iff (s : State) :
    WindowBounds s ↔ OnScreen s.width s.height (windowOf s.ctl) ∧ (s.dev = .attached → screenInRange s) :=
  ⟨fun h => ⟨h.onScreen, h.inRange⟩, fun h => ⟨h.1, h.2⟩⟩

theorem onScreen_of_untrusted {w h : Nat} {c : Ctl} (hv : c.winValid = false) : OnScreen w h (windowOf c) := by
  intro ht
  cases hv.symm.trans ht

/-- A micro-step that sets no window but one on the screen. -/
def SetsOnScreen (w h : Nat) (m : Micro) : Prop := ∀ v, OnScreen w h v → OnScreen w h (microWindow v m)

theorem LeavesWindow.setsOnScreen {m : Micro} (h : LeavesWindow m) (w h' : Nat) : SetsOnScreen w h' m := by
  intro v hv
  rwa [microWindow_of_leaves h]

theorem onScreen_stepsWindow {w h : Nat} {ms : List Micro} (hm : ∀ m ∈ ms, SetsOnScreen w h m) {v : WindowView}
    (hv : OnScreen w h v) : OnScreen w h (stepsWindow ms v) := by
  induction ms generalizing v with
  | nil => exact hv
  | cons m ms ih => exact ih (fun m hm' => hm m (by simp [hm'])) (hm m (by simp) v hv)

theorem setsOnScreen_setwin {w h : Nat} (p : Params) {x0 x1 y0 y1 : Half} (hx : x0.toNat ≤ x1.toNat)
    (hx1 : x1.toNat ≤ w - 1) (hy : y0.toNat ≤ y1.toNat) (hy1 : y1.toNat ≤ h - 1) :
    ∀ m ∈ setwinSteps p x0 x1 y0 y1, SetsOnScreen w h m := by
  have hplain : ∀ u, SetsOnScreen w h (plain u) := fun u => (leavesWindow_plain u).setsOnScreen w h
  have hopens : SetsOnScreen w h (.bus (cmdWord p.regWinX0L) .windowOpens .none) := fun v _ ht => by cases ht
  have hset : SetsOnScreen w h (.bus (highPart y1) .none (.windowSet x0 x1 y0 y1)) :=
    fun v _ _ => ⟨hx, hx1, hy, hy1⟩
  simp [setwinSteps, regw, hplain, hopens, hset]

theorem lastCoord_toNat {n : Nat} (h : n ≤ 65536) : (lastCoord n).toNat = n - 1 := by
  rw [lastCoord, BitVec.toNat_ofNat]
  omega

theorem setsOnScreen_setfull {w h : Nat} (p : Params) (hw : w ≤ 65536) (hh : h ≤ 65536) :
    ∀ m ∈ setfullSteps p w h, SetsOnScreen w h m :=
  setsOnScreen_setwin p (Nat.zero_le _) (lastCoord_toNat hw).le (Nat.zero_le _) (lastCoord_toNat hh).le

/-- The end of a blit's span, on the screen, is a coordinate (R143). -/
theorem spanEnd_toNat {x0 w : Half} {n : Nat} (h : spanEnd x0 w ≤ n - 1) (hn : n ≤ 65536) :
    (BitVec.ofNat 16 (spanEnd x0 w)).toNat = spanEnd x0 w := by
  rw [BitVec.toNat_ofNat]
  omega

/-- A valid request sets no window but one on the screen (R141, R143). -/
theorem setsOnScreen_request {w h : Nat} (p : Params) (hw : w ≤ 65536) (hh : h ≤ 65536) {r : Request}
    (hv : validRequest w h r = true) : ∀ m ∈ requestSteps p w h r, SetsOnScreen w h m := by
  have hcur : ∀ x y, ∀ m ∈ setcurSteps x y, SetsOnScreen w h m := fun x y m hm =>
    (leavesWindow_setcur x y m hm).setsOnScreen w h
  have hbegin : ∀ m ∈ beginwrSteps p, SetsOnScreen w h m := fun m hm => (leavesWindow_beginwr p m hm).setsOnScreen w h
  have hburst : ∀ vs, ∀ m ∈ burst vs, SetsOnScreen w h m := fun vs m hm => (leavesWindow_burst vs m hm).setsOnScreen w h
  have hfull := setsOnScreen_setfull p hw hh
  cases r with
  | fillrect x0 x1 y0 y1 c plen =>
    simp only [validRequest, decide_eq_true_eq] at hv
    obtain ⟨hx, hx1, hy, hy1, -⟩ := hv
    simp only [requestSteps, fillrectSteps, List.mem_append]
    rintro m ((((hm | hm) | hm) | hm) | hm)
    exacts [setsOnScreen_setwin p hx hx1 hy hy1 m hm, hcur _ _ m hm, hbegin m hm, hburst _ m hm, hfull m hm]
  | blit x0 y0 bw bh bytes =>
    obtain ⟨-, hw1, hh1, hx1, hy1⟩ := (validRequest_blit_iff _ _ _ _ _ _ _).1 hv
    have hxe := spanEnd_toNat hx1 hw
    have hye := spanEnd_toNat hy1 hh
    have hwin : ∀ m ∈ setwinSteps p x0 (BitVec.ofNat 16 (spanEnd x0 bw)) y0 (BitVec.ofNat 16 (spanEnd y0 bh)),
        SetsOnScreen w h m :=
      setsOnScreen_setwin p (by rw [hxe, spanEnd]; omega) (by rw [hxe]; exact hx1) (by rw [hye, spanEnd]; omega)
        (by rw [hye]; exact hy1)
    simp only [requestSteps, blitSteps, List.mem_append]
    rintro m ((((hm | hm) | hm) | hm) | hm)
    · exact hwin m hm
    · exact hcur _ _ m hm
    · exact hbegin m hm
    · exact hburst _ m hm
    · split at hm
      · exact hfull m hm
      · cases hm
  | textrun x y c bytes => exact fun m hm => (leavesWindow_textrun p x y c bytes m hm).setsOnScreen w h

theorem setsOnScreen_mirror {w h : Nat} (p : Params) (hw : w ≤ 65536) (hh : h ≤ 65536) :
    ∀ m ∈ mirrorSteps p w h, SetsOnScreen w h m := by
  simp only [mirrorSteps, List.mem_append, List.mem_singleton]
  rintro m ((((hm | hm) | hm) | hm) | rfl)
  · exact (leavesWindow_copyframe w h m hm).setsOnScreen w h
  · exact setsOnScreen_setfull p hw hh m hm
  · exact (leavesWindow_setcur 0 0 m hm).setsOnScreen w h
  · exact (leavesWindow_beginwr p m hm).setsOnScreen w h
  · exact LeavesWindow.setsOnScreen (m := .engineStart) trivial w h

/-- Whatever is left of the holder's operation sets no window but one on the screen. -/
theorem setsOnScreen_holderRest {s : State} (hinv : GateInv s) (hrange : screenInRange s) {ms : List Micro}
    (hr : holderRest s = some ms) : ∀ m ∈ ms, SetsOnScreen s.width s.height m := by
  obtain ⟨-, hw, -, hh⟩ := hrange
  unfold holderRest at hr
  split at hr
  · cases hr
  · split at hr
    · rename_i k _ _ r hs
      cases hr
      exact fun m hm => setsOnScreen_request s.cfg hw hh (hinv.admitted k r (.inl hs)) m (List.mem_of_mem_drop hm)
    · cases hr
  · split at hr
    · cases hr
      exact fun m hm => setsOnScreen_mirror s.cfg hw hh m (List.mem_of_mem_drop hm)
    · cases hr

theorem Untouched.screenInRange {s t : State} (u : Untouched s t) (h : screenInRange s) : screenInRange t := by
  unfold Machine.screenInRange
  rw [u.width, u.height]
  exact h

/-- A run from a state that keeps the bounds, its window on the screen where it ends without a fault, keeps them. -/
theorem WindowBounds.of_run {s : State} {x : Run} (h : WindowBounds s)
    (hx : (∃ t, x = .ok t ∧ Untouched s t ∧ OnScreen s.width s.height (windowOf t.ctl))
      ∨ ∃ t, x = .error (takeBusFault t) ∧ Untouched s t) : WindowBounds x.final ∧ WindowBounds (complete x) := by
  have hrange : ∀ t, Untouched s t → t.dev = .attached → screenInRange t := fun t u hd =>
    u.screenInRange (h.inRange (u.dev ▸ hd))
  rcases hx with ⟨t, rfl, u, ho⟩ | ⟨t, rfl, u⟩
  · have ht : WindowBounds t := (windowBounds_iff t).2 ⟨by rw [u.width, u.height]; exact ho, hrange t u⟩
    refine ⟨ht, (windowBounds_iff _).2 ⟨?_, fun hd => ?_⟩⟩
    · simpa [complete, OnScreen, windowOf] using ht.onScreen
    · simpa [complete, screenInRange] using ht.inRange (by simpa [complete] using hd)
  · obtain ⟨-, -, -, hdev, -, -, -, -, -, hw, hh, -⟩ := takeBusFault_always t
    have hf : WindowBounds (takeBusFault t) :=
      (windowBounds_iff _).2 ⟨onScreen_of_untrusted (winValid_takeBusFault t), fun hd => by
        unfold screenInRange
        rw [hw, hh]
        exact hrange t u (hdev ▸ hd)⟩
    exact ⟨hf, hf⟩

theorem screenInRange_of_accepts {w h n : Nat} (ha : attachAccepts w h n = true) :
    1 ≤ w ∧ w ≤ 65536 ∧ 1 ≤ h ∧ h ≤ 65536 := by
  simp only [attachAccepts, decide_eq_true_eq] at ha
  obtain ⟨h1, h2, h3, h4, -⟩ := ha
  exact ⟨h1, h2, h3, h4⟩

/-- `ATTACH` leaves a screen in range (R195). -/
theorem screenInRange_attach {w h b n : Nat} {s : State} (ha : attachAccepts w h n = true) :
    screenInRange (replayInit (attachReset w h b s)) := by
  have hrun := deviceOf_replayInit (attachReset w h b s)
  unfold screenInRange
  rw [show (replayInit (attachReset w h b s)).width = w from congrArg DeviceView.width hrun,
    show (replayInit (attachReset w h b s)).height = h from congrArg DeviceView.height hrun]
  exact screenInRange_of_accepts ha

/-- A holder's device is attached. -/
theorem GateInv.attached_of_rest {s : State} (h : GateInv s) {ms : List Micro} (hr : holderRest s = some ms) :
    s.dev = .attached :=
  attached_of_ne fun hd => gate_ne_free_of_rest hr (h.detachedIdle hd).1

theorem WindowBounds.holderWork {s : State} (hinv : GateInv s) (h : WindowBounds s) {ms ns : List Micro}
    (hr : holderRest s = some (ms ++ ns)) :
    WindowBounds (runOperation ms s).final ∧ WindowBounds (complete (runOperation ms s)) := by
  refine h.of_run ((runOperation_ctl ms s).imp_left fun ⟨t, e, u, hc⟩ => ⟨t, e, u, ?_⟩)
  rw [hc, windowOf_stepsCtl]
  have hsets := setsOnScreen_holderRest hinv (h.inRange (hinv.attached_of_rest hr)) hr
  exact onScreen_stepsWindow (fun m hm => hsets m (List.mem_append_left _ hm)) h.onScreen

theorem WindowBounds.advance {b : Prop} {s t : State} (hinv : GateInv s) (h : WindowBounds s)
    (ha : Advance b False s t) : WindowBounds t := by
  cases ha with
  | aside a =>
    refine (windowBounds_iff t).2 ⟨?_, fun hd => ?_⟩
    · rw [a.width, a.height, a.ctl]
      exact h.onScreen
    · unfold screenInRange
      rw [a.width, a.height]
      exact h.inRange (a.dev ▸ hd)
  | startRequest => exact ⟨h.onScreen, h.inRange⟩
  | startCycle => exact ⟨h.onScreen, h.inRange⟩
  | bare _ ms hw =>
    refine (h.of_run ((runMicros_ctl id Untouched.refl (fun _ => rfl) ms s).imp_left fun ⟨t, e, u, hc⟩ => ⟨t, e, u, ?_⟩)).1
    rw [hc, windowOf_stepsCtl, stepsWindow_of_leaves (hw.resolve_left id)]
    exact h.onScreen
  | part ms ns hr => exact (h.holderWork hinv hr).1
  | whole ms hr => exact (h.holderWork hinv (ns := []) (by simpa using hr)).2
  | attach w h' b n _ ha =>
    exact (windowBounds_iff _).2 ⟨onScreen_of_untrusted (winValid_replayInit rfl), fun _ => screenInRange_attach ha⟩
  | detach => exact (windowBounds_iff _).2 ⟨onScreen_of_untrusted rfl, fun hd => by cases hd⟩

/-- What a step advances, no bare `SETWIN` among it. -/
theorem step_advance_of_noBareSetwin {s t : State} (hinv : GateInv s) (hn : noBareSetwin s) (h : step s = .next t) :
    ∃ rest, Advance (¬ onlyTheList s) False { s with input := rest } t := by
  obtain ⟨rest, hf⟩ := step_follows h
  exact ⟨rest, (hf.imp id (fun hc => hc hn) id).advance (hinv.withInput rest)⟩

/-- Settles O54: the holder's micro-steps set no window but one on the screen, and whatever else changes it trusts none. -/
theorem windowStaysOnScreen : Obligations.WindowStaysOnScreen := by
  intro s t hinv h hn hstep
  obtain ⟨rest, ha⟩ := step_advance_of_noBareSetwin hinv hn hstep
  exact WindowBounds.advance (s := { s with input := rest }) (hinv.withInput rest) ⟨h.onScreen, h.inRange⟩ ha

/-! ### The window an operation leaves -/

/-- The window the operation under way leaves when it is delivered; the present one where nobody holds the gate. -/
def windowLeft (s : State) : WindowView := stepsWindow ((holderRest s).getD []) (windowOf s.ctl)

/-- The window is the full screen of `w` by `h` whenever it is trusted (R40 item 4). -/
def FullOrUntrusted (w h : Nat) (v : WindowView) : Prop :=
  v.valid = true → v.x0.toNat = 0 ∧ v.x1.toNat = w - 1 ∧ v.y0.toNat = 0 ∧ v.y1.toNat = h - 1

theorem busTransaction_undisturbed (w : BusWord) {s : State} (hp : s.busPlan = none) :
    busTransaction w s = .ok (deliver w s) := by
  simp only [busTransaction, hp]

/-- With nothing to fault, micro-steps run to their end. -/
theorem runMicros_undisturbed {count : State → State} (hc : ∀ s, (count s).busPlan = s.busPlan) (ms : List Micro) {s : State}
    (hp : s.busPlan = none) : ∃ t, runMicros count ms s = .ok t := by
  induction ms generalizing s with
  | nil => exact ⟨s, rfl⟩
  | cons m ms ih =>
    have hm : ∃ t, microStep m s = .ok t ∧ t.busPlan = none := by
      cases m with
      | bus w before after =>
        refine ⟨applyMark after (deliver w (applyMark before s)), ?_, hp⟩
        simp only [microStep, busTransaction_undisturbed w (s := applyMark before s) hp]
      | copyByte i => exact ⟨_, rfl, hp⟩
      | engineStart => exact ⟨_, rfl, hp⟩
    obtain ⟨t, ht, hpt⟩ := hm
    obtain ⟨u, hu⟩ := ih (s := count t) ((hc t).trans hpt)
    exact ⟨u, by simp only [runMicros, ht, hu]⟩

/-- The undisturbed run leaves the window its micro-steps leave, on the same screen. -/
theorem undisturbed_view (s : State) :
    windowOf (undisturbed s).ctl = windowLeft s ∧ (undisturbed s).width = s.width ∧ (undisturbed s).height = s.height := by
  have hrest : holderRest { s with busPlan := none } = holderRest s := rfl
  unfold undisturbed holderRun windowLeft
  rw [hrest]
  cases holderRest s with
  | none => exact ⟨rfl, rfl, rfl⟩
  | some ms =>
    obtain ⟨u, hu⟩ := runMicros_undisturbed countOnly_bumpSeq.busPlan ms (s := { s with busPlan := none }) rfl
    rcases runOperation_ctl ms { s with busPlan := none } with ⟨t, e, ut, hc⟩ | ⟨t, e, -⟩
    · simp only [e, complete, release_ctl, release_width, release_height, hc, windowOf_stepsCtl, Option.getD_some,
        true_and]
      exact ⟨ut.width, ut.height⟩
    · cases e.symm.trans hu

theorem windowInv_iff (s : State) :
    WindowInv s ↔ FullOrUntrusted s.width s.height (windowLeft s) ∧ (s.dev = .attached → screenInRange s) := by
  obtain ⟨hv, hw, hh⟩ := undisturbed_view s
  have hfull : FullOrUntrusted s.width s.height (windowLeft s) ↔
      ((undisturbed s).ctl.winValid = true → windowFull (undisturbed s)) := by
    rw [← hv, ← hw, ← hh]
    rfl
  rw [hfull]
  exact ⟨fun h => ⟨h.restored, h.inRange⟩, fun h => ⟨h.1, h.2⟩⟩

theorem fullOrUntrusted_of_untrusted {w h : Nat} {v : WindowView} (hv : v.valid = false) : FullOrUntrusted w h v := by
  intro ht
  cases hv.symm.trans ht

theorem fullOrUntrusted_setfull {w h : Nat} (p : Params) (hw : w ≤ 65536) (hh : h ≤ 65536) (v : WindowView) :
    FullOrUntrusted w h (stepsWindow (setfullSteps p w h) v) :=
  fun _ => ⟨rfl, lastCoord_toNat hw, rfl, lastCoord_toNat hh⟩

/-- With restoring blits a request leaves the full screen, or the window it found (R254). -/
theorem fullOrUntrusted_request {w h : Nat} {p : Params} (hp : p.blitRestoreWindow = true) (hw : w ≤ 65536) (hh : h ≤ 65536)
    (r : Request) {v : WindowView} (hv : FullOrUntrusted w h v) :
    FullOrUntrusted w h (stepsWindow (requestSteps p w h r) v) := by
  cases r with
  | fillrect x0 x1 y0 y1 c plen =>
    simp only [requestSteps, fillrectSteps, stepsWindow_append]
    exact fullOrUntrusted_setfull p hw hh _
  | blit x0 y0 bw bh bytes =>
    simp only [requestSteps, blitSteps, stepsWindow_append, hp, if_true]
    exact fullOrUntrusted_setfull p hw hh _
  | textrun x y c bytes =>
    rw [requestSteps, stepsWindow_of_leaves (leavesWindow_textrun p x y c bytes)]
    exact hv

theorem stepsWindow_mirrorTail (p : Params) (w h : Nat) (v : WindowView) :
    stepsWindow (mirrorTail p w h) v = stepsWindow (setfullSteps p w h) v := by
  simp only [mirrorTail, stepsWindow_append, stepsWindow_setcur, stepsWindow_beginwr]
  rfl

/-- A mirror cycle leaves the full screen (R166). -/
theorem fullOrUntrusted_mirror {w h : Nat} (p : Params) (hw : w ≤ 65536) (hh : h ≤ 65536) (v : WindowView) :
    FullOrUntrusted w h (stepsWindow (mirrorSteps p w h) v) := by
  rw [mirrorSteps_eq, stepsWindow_append, stepsWindow_mirrorTail]
  exact fullOrUntrusted_setfull p hw hh _

theorem windowLeft_of_free {s : State} (hg : s.gate = .free) : windowLeft s = windowOf s.ctl := by
  rw [windowLeft, holderRest_of_free hg]
  rfl

/-- The state a BusFault leaves trusts no window. -/
theorem windowLeft_takeBusFault (s : State) : (windowLeft (takeBusFault s)).valid = false := by
  rw [windowLeft_of_free (takeBusFault_gate s)]
  exact winValid_takeBusFault s

/-- A run from a state with the window invariant: either the window left is the same, or the BusFault is taken. -/
theorem WindowInv.of_run {s t : State} (h : WindowInv s) (hdev : t.dev = s.dev) (hw : t.width = s.width)
    (hh : t.height = s.height) (hl : windowLeft t = windowLeft s ∨ (windowLeft t).valid = false) : WindowInv t := by
  obtain ⟨hfull, hrange⟩ := (windowInv_iff s).1 h
  refine (windowInv_iff t).2 ⟨?_, fun hd => ?_⟩
  · rcases hl with e | e
    · rw [e, hw, hh]
      exact hfull
    · exact fullOrUntrusted_of_untrusted e
  · unfold screenInRange
    rw [hw, hh]
    exact hrange (hdev ▸ hd)

theorem WindowInv.takeBusFault {s t : State} (h : WindowInv s) (u : Untouched s t) : WindowInv (takeBusFault t) := by
  obtain ⟨-, -, -, hdev, -, -, -, -, -, hw, hh, -⟩ := takeBusFault_always t
  exact h.of_run (hdev.trans u.dev) (hw.trans u.width) (hh.trans u.height) (.inr (windowLeft_takeBusFault t))

/-! ### What a step makes of the rest of the operation -/

/-- A bare run that completes leaves the positions as they were. -/
theorem runBare_positions {ms : List Micro} {s t : State} (h : runBare ms s = .ok t) :
    t.fgs = s.fgs ∧ t.irqSeqPc = s.irqSeqPc := by
  induction ms generalizing s with
  | nil => exact (Except.ok.inj h) ▸ ⟨rfl, rfl⟩
  | cons m ms ih =>
    simp only [runBare, runMicros] at h
    cases hm : microStep m s with
    | ok u =>
      rw [hm] at h
      obtain ⟨hf, hi⟩ := microStep_positions hm
      obtain ⟨hf', hi'⟩ := ih h
      exact ⟨hf'.trans hf, hi'.trans hi⟩
    | error u => rw [hm] at h; cases h

/-- The rest of the operation is read off the gate, the positions and the sizes. -/
theorem holderRest_congr {s t : State} (u : Untouched s t) (hf : t.fgs = s.fgs) (hi : t.irqSeqPc = s.irqSeqPc) :
    holderRest t = holderRest s := by
  have hseq : ∀ k, seqPcOf t k = seqPcOf s k := seqPcOf_congr hf
  simp only [holderRest, requestRest, mirrorRest, u.gate, u.slots, hseq, u.mirror, hi, u.cfg, u.width, u.height]

/-- A request just started has all its micro-steps left (R181). -/
theorem holderRest_startRequest {s : State} {k : Nat} (r : Request) (hk : (slotOf s k).isSome) :
    holderRest (setSeqPc k 0 (setSlot k (.running r) { s with gate := .heldFG k })) =
      some (requestSteps s.cfg s.width s.height r) := by
  obtain ⟨f, hf⟩ : ∃ f, s.fgs[k]? = some f := by simpa [slotOf, Option.isSome_iff_exists] using hk
  have hs : slotOf (setSeqPc k 0 (setSlot k (.running r) { s with gate := .heldFG k })) k = some (.running r) := by
    simp [slotOf, hf]
  have hn : seqPcOf (setSeqPc k 0 (setSlot k (.running r) { s with gate := .heldFG k })) k = 0 := by
    simp [seqPcOf, hf]
  simp only [holderRest, setSeqPc_gate, setSlot_gate, hs, requestRest, hn]
  rfl

/-- A cycle just started has all its micro-steps left (R182, R166). -/
theorem holderRest_startCycle (s : State) :
    holderRest { s with gate := .heldIRQ, irqSeqPc := 0, mirror := .mirroring, handler := .cycle } =
      some (mirrorSteps s.cfg s.width s.height) := rfl

theorem gate_replayInit {s : State} (hg : s.gate = .free) : (replayInit s).gate = .free := by
  rcases replayInit_cases s with ⟨t, e, u, -⟩ | ⟨t, e, u⟩ <;> rw [e]
  · exact u.gate.trans hg
  · exact takeBusFault_gate t

/-- With restoring blits every step but a bare `SETWIN` keeps the window invariant. -/
theorem WindowInv.advance {b : Prop} {s t : State} (h : WindowInv s) (hp : s.cfg.blitRestoreWindow = true)
    (ha : Advance b False s t) : WindowInv t := by
  obtain ⟨hfull, hrange⟩ := (windowInv_iff s).1 h
  cases ha with
  | aside a => exact h.of_run a.dev a.width a.height (.inl (by rw [windowLeft, a.holderRest, a.ctl, windowLeft]))
  | startRequest k r hd _ hg _ hk =>
    obtain ⟨-, hw, -, hh⟩ := hrange hd
    refine (windowInv_iff _).2 ⟨?_, hrange⟩
    rw [windowLeft, holderRest_startRequest r hk, Option.getD_some]
    exact fullOrUntrusted_request hp hw hh r (windowLeft_of_free hg ▸ hfull)
  | startCycle hd _ _ =>
    obtain ⟨-, hw, -, hh⟩ := hrange hd
    refine (windowInv_iff _).2 ⟨?_, hrange⟩
    rw [windowLeft, holderRest_startCycle, Option.getD_some]
    exact fullOrUntrusted_mirror s.cfg hw hh _
  | bare _ ms hw =>
    rcases runMicros_ctl id Untouched.refl (fun _ => rfl) ms s with ⟨t, e, u, hc⟩ | ⟨t, e, u⟩
    · have hpos := runBare_positions e
      rw [runBare, e]
      refine h.of_run u.dev u.width u.height (.inl ?_)
      rw [Run.final, windowLeft, holderRest_congr u hpos.1 hpos.2, hc, windowOf_stepsCtl,
        stepsWindow_of_leaves (hw.resolve_left id), windowLeft]
    · rw [runBare, e]
      exact h.takeBusFault u
  | part ms ns hr =>
    rcases runOperation_part hr with ⟨t, e, u, hc, hrest⟩ | ⟨t, e, u⟩ <;> rw [e]
    · refine h.of_run u.dev u.width u.height (.inl ?_)
      rw [Run.final, windowLeft, hrest, hc, windowOf_stepsCtl, windowLeft, hr, Option.getD_some, Option.getD_some,
        stepsWindow_append]
    · exact h.takeBusFault u
  | whole ms hr =>
    rcases runOperation_ctl ms s with ⟨t, e, u, hc⟩ | ⟨t, e, u⟩ <;> rw [e]
    · refine h.of_run ((release_dev t).trans u.dev) ((release_width t).trans u.width)
        ((release_height t).trans u.height) (.inl ?_)
      rw [complete, windowLeft_of_free (release_gate t), release_ctl, hc, windowOf_stepsCtl, windowLeft, hr,
        Option.getD_some]
    · exact h.takeBusFault u
  | attach w h' b n _ ha =>
    refine (windowInv_iff _).2 ⟨?_, fun _ => screenInRange_attach ha⟩
    rw [windowLeft_of_free (gate_replayInit rfl)]
    exact fullOrUntrusted_of_untrusted (winValid_replayInit rfl)
  | detach => exact (windowInv_iff _).2 ⟨fullOrUntrusted_of_untrusted rfl, fun hd => by cases hd⟩

/-- Settles O53: the window left is the same while the holder works, and a new operation ends with the full screen or with
the window it found. -/
theorem windowRestoredKept : Obligations.WindowRestoredKept := by
  intro s t hinv h hp hn hstep
  obtain ⟨rest, ha⟩ := step_advance_of_noBareSetwin hinv hn hstep
  exact WindowInv.advance (s := { s with input := rest }) ((windowInv_iff _).2 ((windowInv_iff s).1 h)) hp ha

end Sys2Proof.Machine
end

section
/-! PROOFS. The sequencing rule (41_controllerstate.md R134, 10_state.md R40 item 6): every "prepare RAM write" finds the
cursor set since the last window change, in the words of every operation and in the flags of the operation under way. -/

namespace Sys2Proof.Machine

/-! ### In the transactions -/

/-- The scan of a list of words. -/
def scanWords (p : Params) (q : CursorScan) (ws : List BusWord) : CursorScan := ws.foldl (scanWord p) q

theorem cursorBeforeBurst_append (p : Params) (q : CursorScan) (ws vs : List BusWord) :
    cursorBeforeBurst p q (ws ++ vs) ↔ cursorBeforeBurst p q ws ∧ cursorBeforeBurst p (scanWords p q ws) vs := by
  induction ws generalizing q with
  | nil => simp [cursorBeforeBurst, scanWords]
  | cons w ws ih =>
    simp only [List.cons_append, cursorBeforeBurst, ih, and_assoc]
    rfl

/-- Words without a "prepare RAM write" meet the rule. -/
theorem cursorBeforeBurst_of_notMem {p : Params} {ws : List BusWord} (h : cmdWord p.regMrw ∉ ws) (q : CursorScan) :
    cursorBeforeBurst p q ws := by
  induction ws generalizing q with
  | nil => trivial
  | cons w ws ih =>
    simp only [List.mem_cons, not_or] at h
    exact ⟨fun e => absurd e.symm h.1, ih h.2 _⟩

/-- The first word of a cursor-set sequence counts as the first, however far the scan had come. -/
theorem scanWord_first {p : Params} (hp : paramsWf p = true) (q : CursorScan) :
    scanWord p q (cmdWord 0x46#16) = ⟨1, q.complete⟩ := by
  have hw : (0x46#16 : Half) ∉ windowRegs p := paramsWf_cursor_notMem_window hp (by decide)
  have hat : q.words ≠ 0 → cursorWordAt q.words (cmdWord 0x46#16) = false := fun h0 => by
    unfold cursorWordAt
    split <;> simp_all [cmdWord]
  by_cases h0 : q.words = 0
  · simp [scanWord, cmdWord, hw, h0, cursorWordAt]
  · simp [scanWord, hat h0]
    simp [cmdWord, hw, cursorWordAt]

/-- A cursor-set sequence completes the scan, however far it had come (R130). -/
theorem scanWords_cursor {p : Params} (hp : paramsWf p = true) (q : CursorScan) (x y : Half) :
    scanWords p q (cursorWords x y) = ⟨0, true⟩ := by
  have hw : ∀ a ∈ cursorRegs, a ∉ windowRegs p := fun a ha => paramsWf_cursor_notMem_window hp ha
  have h47 := hw 0x47#16 (by decide)
  have h48 := hw 0x48#16 (by decide)
  have h49 := hw 0x49#16 (by decide)
  show scanWords p (scanWord p q (cmdWord 0x46#16)) (cursorWords x y).tail = _
  rw [scanWord_first hp]
  simp [scanWords, cursorWords, scanWord, cmdWord, lowPart, highPart, datWord, cursorWordAt, h47, h48, h49]

theorem mrw_notMem_cursorWords {p : Params} (hp : paramsWf p = true) (x y : Half) : cmdWord p.regMrw ∉ cursorWords x y := by
  have hne : ∀ a ∈ cursorRegs, p.regMrw ≠ a := fun a ha => (paramsWf_cursor_ne_mrw hp ha).symm
  simp only [cursorRegs, regCurXL, regCurXH, regCurYL, regCurYH, List.mem_cons, List.not_mem_nil, or_false,
    forall_eq_or_imp, forall_eq] at hne
  simp [cursorWords, cmdWord, lowPart, highPart, datWord, hne]

theorem mrw_notMem_windowWords {p : Params} (hp : paramsWf p = true) (x0 x1 y0 y1 : Half) :
    cmdWord p.regMrw ∉ windowWords p x0 x1 y0 y1 := by
  have hne : ∀ a ∈ windowRegs p, p.regMrw ≠ a := fun a ha => (paramsWf_window_ne_mrw hp ha).symm
  simp only [windowRegs, List.mem_cons, List.not_mem_nil, or_false, forall_eq_or_imp, forall_eq] at hne
  simp [windowWords, cmdWord, lowPart, highPart, datWord, hne]

theorem mrw_notMem_data (p : Params) (vs : List Half) : cmdWord p.regMrw ∉ vs.map datWord := by
  simp [cmdWord, datWord]

/-- A cursor-set sequence, the one "prepare RAM write", and words without another around them meet the rule. -/
theorem cursorBeforeBurst_of_parts {p : Params} (hp : paramsWf p = true) {pre post : List BusWord} (x y : Half)
    (hpre : cmdWord p.regMrw ∉ pre) (hpost : cmdWord p.regMrw ∉ post) (q : CursorScan) :
    cursorBeforeBurst p q (pre ++ cursorWords x y ++ [cmdWord p.regMrw] ++ post) := by
  have hcur := cursorBeforeBurst_of_notMem (mrw_notMem_cursorWords hp x y) (scanWords p q pre)
  have hscan : scanWords p q (pre ++ cursorWords x y) = ⟨0, true⟩ := by
    rw [scanWords, List.foldl_append]
    exact scanWords_cursor hp _ x y
  simp only [cursorBeforeBurst_append, hscan]
  exact ⟨⟨⟨cursorBeforeBurst_of_notMem hpre q, hcur⟩, fun _ => rfl, trivial⟩, cursorBeforeBurst_of_notMem hpost _⟩

theorem busWords_copyframe (w h : Nat) : busWords (copyframeSteps w h) = [] := by
  simp [busWords, copyframeSteps]

/-- The transactions of a mirror cycle (R166). -/
theorem busWords_mirror (p : Params) (w h : Nat) : busWords (mirrorSteps p w h) = mirrorWords p w h := by
  simp only [mirrorSteps, busWords_append, busWords_copyframe, busWords_setfull, busWords_setcur, busWords_beginwr,
    mirrorWords, List.nil_append]
  exact List.append_nil _

theorem cursorBeforeBurst_mirror {p : Params} (hp : paramsWf p = true) (w h : Nat) (q : CursorScan) :
    cursorBeforeBurst p q (busWords (mirrorSteps p w h)) := by
  rw [busWords_mirror, ← List.append_nil (mirrorWords p w h)]
  exact cursorBeforeBurst_of_parts hp 0 0 (mrw_notMem_windowWords hp _ _ _ _) List.not_mem_nil q

/-- The words of a request meet the rule, unless its colour sequence selects `REG_MRW` (R102). -/
theorem cursorBeforeBurst_request {p : Params} (hp : paramsWf p = true) (w h : Nat) (q : CursorScan) (r : Request)
    (hc : ∀ x y c bytes, r = .textrun x y c bytes → ∀ e ∈ colorWrites p.fgColorSeq c, e.1 ≠ p.regMrw) :
    cursorBeforeBurst p q (busWords (requestSteps p w h r)) := by
  have hwin := fun x0 x1 y0 y1 => mrw_notMem_windowWords hp x0 x1 y0 y1
  have hfull : cmdWord p.regMrw ∉ fullWords p w h := hwin _ _ _ _
  cases r with
  | fillrect x0 x1 y0 y1 c plen =>
    simp only [requestSteps, fillrectSteps, busWords_append, busWords_setwin, busWords_setcur, busWords_beginwr,
      busWords_burst, busWords_setfull]
    rw [List.append_assoc _ (List.map _ _)]
    refine cursorBeforeBurst_of_parts hp x0 y0 (hwin _ _ _ _) (fun hm => ?_) q
    exact (List.mem_append.1 hm).elim (mrw_notMem_data p _) hfull
  | blit x0 y0 bw bh bytes =>
    simp only [requestSteps, blitSteps, busWords_append, busWords_setwin, busWords_setcur, busWords_beginwr,
      busWords_burst]
    rw [List.append_assoc _ (List.map _ _)]
    refine cursorBeforeBurst_of_parts hp x0 y0 (hwin _ _ _ _) (fun hm => ?_) q
    rcases List.mem_append.1 hm with hm | hm
    · exact mrw_notMem_data p _ hm
    · split at hm
      · exact hfull (busWords_setfull p w h ▸ hm)
      · cases hm
  | textrun x y c bytes =>
    rw [requestSteps, busWords_textrun, textWordsOf]
    refine cursorBeforeBurst_of_parts hp x y (fun hm => ?_) (by simp [cmdWord, datWord]) q
    obtain ⟨e, he, hm⟩ := List.mem_flatMap.1 hm
    have hne := hc x y c bytes rfl e he
    simp [cmdWord, datWord, hne.symm] at hm

/-! ### In the flags of the operation under way -/

theorem burstReady_append (p : Params) (sw : Bool) (ms ns : List Micro) (c : Ctl) :
    burstReady p sw (ms ++ ns) c ↔ burstReady p sw ms c ∧ burstReady p sw ns (stepsCtl p ms c) := by
  induction ms generalizing c with
  | nil => simp [burstReady, stepsCtl]
  | cons m ms ih =>
    simp only [List.cons_append, burstReady, ih, and_assoc]
    rfl

/-- None of the micro-steps is a `BEGINWR`. -/
def NoBeginwr (p : Params) (ms : List Micro) : Prop := ∀ m ∈ ms, m ∉ beginwrSteps p

theorem burstReady_of_noBeginwr {p : Params} {ms : List Micro} (h : NoBeginwr p ms) (sw : Bool) (c : Ctl) :
    burstReady p sw ms c := by
  induction ms generalizing c with
  | nil => trivial
  | cons m ms ih => exact ⟨fun hm => absurd hm (h m (by simp)), ih (fun m hm => h m (by simp [hm])) _⟩

theorem NoBeginwr.append {p : Params} {ms ns : List Micro} (h : NoBeginwr p ms) (k : NoBeginwr p ns) :
    NoBeginwr p (ms ++ ns) := fun m hm => (List.mem_append.1 hm).elim (h m) (k m)

theorem noBeginwr_setwin (p : Params) (x0 x1 y0 y1 : Half) : NoBeginwr p (setwinSteps p x0 x1 y0 y1) := by
  simp [NoBeginwr, setwinSteps, regw, plain, beginwrSteps]

theorem noBeginwr_setcur (p : Params) (x y : Half) : NoBeginwr p (setcurSteps x y) := by
  simp [NoBeginwr, setcurSteps, regw, plain, beginwrSteps]

theorem noBeginwr_burst (p : Params) (vs : List Half) : NoBeginwr p (burst vs) := by
  simp [NoBeginwr, burst, plain, beginwrSteps]

theorem noBeginwr_color (p : Params) (c : Half) : NoBeginwr p (colorSteps p c) := by
  simp only [NoBeginwr, colorSteps, List.mem_flatMap, regw, List.mem_cons, List.not_mem_nil, or_false]
  rintro m ⟨e, -, rfl | rfl⟩ <;> simp [plain, beginwrSteps]

theorem noBeginwr_copyframe (p : Params) (w h : Nat) : NoBeginwr p (copyframeSteps w h) := by
  simp [NoBeginwr, copyframeSteps, beginwrSteps]

/-- The last micro-step of a `SETCUR` trusts the cursor, whatever the flags were (R130). -/
theorem curValid_stepsCtl_setcur (p : Params) (x y : Half) (c : Ctl) :
    (stepsCtl p (setcurSteps x y) c).curValid = true := rfl

/-- A cursor-set sequence right before the one `BEGINWR` gives it the flags it needs. -/
theorem burstReady_of_parts {p : Params} {sw : Bool} {pre post : List Micro} (x y : Half) (hpre : NoBeginwr p pre)
    (hpost : NoBeginwr p post) (c : Ctl) (hw : sw = true → (stepsWindow pre (windowOf c)).valid = true) :
    burstReady p sw (pre ++ setcurSteps x y ++ beginwrSteps p ++ post) c := by
  have hcur : (stepsCtl p (pre ++ setcurSteps x y) c).curValid = true := by
    rw [stepsCtl_append]
    exact curValid_stepsCtl_setcur p x y _
  have hwin : windowOf (stepsCtl p (pre ++ setcurSteps x y) c) = stepsWindow pre (windowOf c) := by
    rw [windowOf_stepsCtl, stepsWindow_append, stepsWindow_setcur]
  simp only [burstReady_append _ _ (pre ++ setcurSteps x y ++ beginwrSteps p),
    burstReady_append _ _ (pre ++ setcurSteps x y)]
  refine ⟨⟨burstReady_of_noBeginwr (hpre.append (noBeginwr_setcur p x y)) sw c, fun _ => ⟨hcur, fun hs => ?_⟩, trivial⟩,
    burstReady_of_noBeginwr hpost sw _⟩
  exact (congrArg WindowView.valid hwin).trans (hw hs)

/-- A request finds its flags at its `BEGINWR`; a text run sets no window of its own (R145). -/
theorem burstReady_request (p : Params) (w h : Nat) (r : Request) (c : Ctl) {sw : Bool}
    (hsw : sw = true → ∀ x y cl bytes, r ≠ .textrun x y cl bytes) : burstReady p sw (requestSteps p w h r) c := by
  cases r with
  | fillrect x0 x1 y0 y1 cl plen =>
    rw [requestSteps, fillrectSteps, List.append_assoc _ (burst _)]
    exact burstReady_of_parts x0 y0 (noBeginwr_setwin p _ _ _ _)
      ((noBeginwr_burst p _).append (noBeginwr_setwin p _ _ _ _)) c fun _ => rfl
  | blit x0 y0 bw bh bytes =>
    have hrestore : NoBeginwr p (if p.blitRestoreWindow then setfullSteps p w h else []) := by
      split
      · exact noBeginwr_setwin p _ _ _ _
      · simp [NoBeginwr]
    rw [requestSteps, blitSteps, List.append_assoc _ (burst _)]
    exact burstReady_of_parts x0 y0 (noBeginwr_setwin p _ _ _ _) ((noBeginwr_burst p _).append hrestore) c fun _ => rfl
  | textrun x y cl bytes =>
    exact burstReady_of_parts x y (noBeginwr_color p cl) (noBeginwr_burst p _) c fun hs => absurd rfl (hsw hs x y cl bytes)

/-- A mirror cycle finds its flags at its `BEGINWR` (R166). -/
theorem burstReady_mirror (p : Params) (w h : Nat) (sw : Bool) (c : Ctl) : burstReady p sw (mirrorSteps p w h) c := by
  have hend : NoBeginwr p [.engineStart] := by simp [NoBeginwr, beginwrSteps]
  refine burstReady_of_parts 0 0 ((noBeginwr_copyframe p w h).append (noBeginwr_setwin p _ _ _ _)) hend c fun _ => ?_
  rw [stepsWindow_append]
  rfl

theorem burstInv_of_free {s : State} (hg : s.gate = .free) : BurstInv s := by
  intro ms hr
  exact absurd hg (gate_ne_free_of_rest hr)

theorem Untouched.setsWindow {s t : State} (u : Untouched s t) : setsWindow t = setsWindow s := by
  simp only [Machine.setsWindow, u.gate, u.slots]

/-- A request just started sets its window unless it is a text run. -/
theorem setsWindow_startRequest {s : State} {k : Nat} {r : Request} (hk : (slotOf s k).isSome)
    (h : setsWindow (setSeqPc k 0 (setSlot k (.running r) { s with gate := .heldFG k })) = true) :
    ∀ x y c bytes, r ≠ .textrun x y c bytes := by
  rintro x y c bytes rfl
  obtain ⟨f, hf⟩ : ∃ f, s.fgs[k]? = some f := by simpa [slotOf, Option.isSome_iff_exists] using hk
  simp [setsWindow, slotOf, hf] at h

/-- Every step but an operation beside the holder's list keeps the invariant of the bursts. -/
theorem BurstInv.advance {q : Prop} {s t : State} (h : BurstInv s) (ha : Advance False q s t) : BurstInv t := by
  cases ha with
  | aside a =>
    intro ms hr
    rw [a.holderRest] at hr
    rw [a.cfg, a.setsWindow, a.ctl]
    exact h ms hr
  | startRequest k r _ _ _ _ hk =>
    intro ms hr
    rw [holderRest_startRequest r hk, Option.some.injEq] at hr
    exact hr ▸ burstReady_request _ _ _ r _ (setsWindow_startRequest hk)
  | startCycle =>
    intro ms hr
    rw [holderRest_startCycle, Option.some.injEq] at hr
    exact hr ▸ burstReady_mirror _ _ _ _ _
  | bare hb => exact hb.elim
  | part ms ns hr =>
    rcases runOperation_part hr with ⟨t, e, u, hc, hrest⟩ | ⟨t, e, u⟩ <;> rw [e]
    · intro ns' hr'
      rw [Run.final, hrest, Option.some.injEq] at hr'
      rw [Run.final, u.cfg, u.setsWindow, hc, ← hr']
      exact ((burstReady_append _ _ ms ns _).1 (h _ hr)).2
    · exact burstInv_of_free (takeBusFault_gate t)
  | whole ms hr =>
    rcases runOperation_ctl ms s with ⟨t, e, -, -⟩ | ⟨t, e, -⟩ <;> rw [e]
    · exact burstInv_of_free (release_gate t)
    · exact burstInv_of_free (takeBusFault_gate t)
  | attach w h' b n => exact burstInv_of_free (gate_replayInit rfl)
  | detach => exact burstInv_of_free rfl

/-- Settles O34: in the words by the scan, in the flags by the operation under way. -/
theorem cursorSetBeforeBurst : Obligations.CursorSetBeforeBurst := by
  refine ⟨fun p w h q hp => ⟨cursorBeforeBurst_mirror hp w h q, fun r hc => cursorBeforeBurst_request hp w h q r hc⟩,
    fun s t hinv h honly hstep => ?_, fun s m ms h hr hm => (h _ hr).1 hm⟩
  obtain ⟨rest, hf⟩ := step_follows hstep
  exact BurstInv.advance (s := { s with input := rest }) h
    ((hf.imp (fun hc => hc honly) id id).advance (hinv.withInput rest))

end Sys2Proof.Machine
end

section
/-! PROOFS. The encodings (30_encoding.md): what the decoder makes of each encoded operation, and the words of the tables. -/

namespace Sys2Proof

/-! ### Operation numbers with operands -/

/-- The operand of `ACQ`, and the port of `SUBMIT`: a number of 16 bits (log entry 5). -/
theorem half_natBytes_two {k : Nat} (h : k < 2 ^ 16) : ∃ a b, natBytes 2 k = [a, b] ∧ (half a b).toNat = k := by
  refine ⟨_, _, natBytes_two h, ?_⟩
  rw [half_hiByte_loByte, BitVec.toNat_ofNat, Nat.mod_eq_of_lt h]

theorem decode_encode_acq {k : Nat} (h : k < 2 ^ 16) : decode (encode (.acq k)).1 (encode (.acq k)).2 = .ok (.acq k) := by
  obtain ⟨a, b, e, hab⟩ := half_natBytes_two h
  show decodeAcq (natBytes 2 k) = _
  rw [e, decodeAcq, hab]

theorem decode_encode_submit {k : Nat} (h : k < 2 ^ 16) (d : Descriptor) :
    decode (encode (.submit k d)).1 (encode (.submit k d)).2 = .ok (.submit k d) := by
  obtain ⟨a, b, e, hab⟩ := half_natBytes_two h
  show decodeSubmit (natBytes 2 k ++ encodeDescriptor d) = _
  simp only [e, List.cons_append, List.nil_append, decodeSubmit, decodeDescriptor_encodeDescriptor, hab]

/-- A number is read back from as many bytes as it fits in. -/
theorem bytesNat_natBytes_of_lt {k n : Nat} (h : n < 256 ^ k) : bytesNat (natBytes k n) = n := by
  rw [bytesNat_natBytes, Nat.mod_eq_of_lt h]

/-- The four operands of `ATTACH` stand behind one another at fixed places (log entry 5). -/
theorem decodeAttach_fields {w h b n : List Byte} (hw : w.length = 4) (hh : h.length = 4) (hb : b.length = 8)
    (hn : n.length = 8) :
    decodeAttach (w ++ h ++ b ++ n) = .ok (.attach (bytesNat w) (bytesNat h) (bytesNat b) (bytesNat n)) := by
  have e4 : (w ++ h ++ b ++ n).drop 4 = h ++ b ++ n := by simp [hw]
  have e8 : (w ++ h ++ b ++ n).drop 8 = b ++ n := by simp [List.drop_append, hw, hh]
  have e16 : (w ++ h ++ b ++ n).drop 16 = n := List.drop_left' (by simp [hw, hh, hb])
  have t4 : (w ++ h ++ b ++ n).take 4 = w := by simp [hw]
  have t8 : (h ++ b ++ n).take 4 = h := by simp [hh]
  have t16 : (b ++ n).take 8 = b := by simp [hb]
  unfold decodeAttach
  rw [if_pos (by simp [hw, hh, hb, hn]), e4, e8, e16, t4, t8, t16]

theorem decode_encode_attach {w h b n : Nat} (hw : w < 2 ^ 32) (hh : h < 2 ^ 32) (hb : b < 2 ^ 64) (hn : n < 2 ^ 64) :
    decode (encode (.attach w h b n)).1 (encode (.attach w h b n)).2 = .ok (.attach w h b n) := by
  show decodeAttach (natBytes 4 w ++ natBytes 4 h ++ natBytes 8 b ++ natBytes 8 n) = _
  rw [decodeAttach_fields (natBytes_length 4 w) (natBytes_length 4 h) (natBytes_length 8 b) (natBytes_length 8 n),
    bytesNat_natBytes_of_lt (by omega), bytesNat_natBytes_of_lt (by omega), bytesNat_natBytes_of_lt (by omega),
    bytesNat_natBytes_of_lt (by omega)]

/-! ### Request descriptors -/

theorem decode_encode_blit (x0 y0 w h : Half) {bytes : List Byte} (hl : bytes.length < 2 ^ 32) :
    decode (encode (.blit x0 y0 w h bytes)).1 (encode (.blit x0 y0 w h bytes)).2 = .ok (.blit x0 y0 w h bytes) := by
  have hwf := descriptorOf_wf 1#16 x0 y0 w h 0#16 hl
  have hreq := decodeRequest_blit (d := descriptorOf 1#16 x0 y0 w h 0#16 bytes) rfl rfl hwf
  simp only [decode, encode, decodeReq, decodeDescriptor_encodeDescriptor, hreq, hwf, if_true]
  rfl

/-- `H0 = 0x0002` stands for a fill that declares `plen` payload bytes (R105). -/
theorem decodeRequest_fillrect {d : Descriptor} (h0 : d.h0 = 0x0002) :
    decodeRequest d = .ok (.fillrect d.h1 d.h2 d.h3 d.h4 d.h5 d.plen) := by
  simp [decodeRequest, h0]

/-- `H0 = 0x0003` with its must-be-zero fields at 0 stands for a text run of the delivered bytes (R105). -/
theorem decodeRequest_textrun {d : Descriptor} (h0 : d.h0 = 0x0003) (h4 : d.h4 = 0) (h5 : d.h5 = 0) (hwf : d.wf = true) :
    decodeRequest d = .ok (.textrun d.h1 d.h2 d.h3 d.payload) := by
  simp [decodeRequest, h0, h4, h5, Descriptor.take_payload_of_wf hwf]

theorem decode_encode_fillrect (x0 x1 y0 y1 c : Half) {payload : List Byte} (hl : payload.length < 2 ^ 32) :
    decode (encode (.fillrect x0 x1 y0 y1 c payload)).1 (encode (.fillrect x0 x1 y0 y1 c payload)).2 =
      .ok (.fillrect x0 x1 y0 y1 c payload) := by
  have hwf := descriptorOf_wf 2#16 x0 x1 y0 y1 c hl
  have hreq := decodeRequest_fillrect (d := descriptorOf 2#16 x0 x1 y0 y1 c payload) rfl
  simp only [decode, encode, decodeReq, decodeDescriptor_encodeDescriptor, hreq, hwf, if_true]
  rfl

theorem decode_encode_textrun (x y c : Half) {bytes : List Byte} (hl : bytes.length < 2 ^ 32) :
    decode (encode (.textrun x y c bytes)).1 (encode (.textrun x y c bytes)).2 = .ok (.textrun x y c bytes) := by
  have hwf := descriptorOf_wf 3#16 x y c 0#16 0#16 hl
  have hreq := decodeRequest_textrun (d := descriptorOf 3#16 x y c 0#16 0#16 bytes) rfl rfl rfl hwf
  simp only [decode, encode, decodeReq, decodeDescriptor_encodeDescriptor, hreq, hwf, if_true]
  rfl

/-! ### Bus words and the operations of 16-bit operands -/

theorem decode_encode_wcmd (a : Half) : decode (encode (.wcmd a)).1 (encode (.wcmd a)).2 = .ok (.wcmd a) :=
  congrArg (fun v => Except.ok (Instr.wcmd v)) (half_hiByte_loByte a)

theorem decode_encode_wdat (v : Half) : decode (encode (.wdat v)).1 (encode (.wdat v)).2 = .ok (.wdat v) :=
  congrArg (fun v => Except.ok (Instr.wdat v)) (half_hiByte_loByte v)

theorem decode_encode_setcur (x y : Half) :
    decode (encode (.setcur x y)).1 (encode (.setcur x y)).2 = .ok (.setcur x y) := by
  show Except.ok (Instr.setcur (half (hiByte x) (loByte x)) (half (hiByte y) (loByte y))) = _
  rw [half_hiByte_loByte, half_hiByte_loByte]

theorem decode_encode_setwin (x0 x1 y0 y1 : Half) :
    decode (encode (.setwin x0 x1 y0 y1)).1 (encode (.setwin x0 x1 y0 y1)).2 = .ok (.setwin x0 x1 y0 y1) := by
  show Except.ok (Instr.setwin (half (hiByte x0) (loByte x0)) (half (hiByte x1) (loByte x1))
    (half (hiByte y0) (loByte y0)) (half (hiByte y1) (loByte y1))) = _
  simp only [half_hiByte_loByte]

/-- Settles O1, by the operation: those with operands by their own lemma, the rest are closed terms. -/
theorem decodeEncodeRoundTrip : Obligations.DecodeEncodeRoundTrip := by
  intro i hwf
  cases i with
  | wcmd a => exact decode_encode_wcmd a
  | wdat v => exact decode_encode_wdat v
  | setcur x y => exact decode_encode_setcur x y
  | setwin x0 x1 y0 y1 => exact decode_encode_setwin x0 x1 y0 y1
  | blit x0 y0 w h bytes => exact decode_encode_blit x0 y0 w h (by simpa [Instr.wf] using hwf)
  | fillrect x0 x1 y0 y1 c payload => exact decode_encode_fillrect x0 x1 y0 y1 c (by simpa [Instr.wf] using hwf)
  | textrun x y c bytes => exact decode_encode_textrun x y c (by simpa [Instr.wf] using hwf)
  | acq k => exact decode_encode_acq (by simpa [Instr.wf] using hwf)
  | submit k d => exact decode_encode_submit (by simpa [Instr.wf] using hwf) d
  | attach w h b n =>
    simp only [Instr.wf, Bool.and_eq_true, decide_eq_true_eq] at hwf
    obtain ⟨⟨⟨hw, hh⟩, hb⟩, hn⟩ := hwf
    exact decode_encode_attach hw hh hb hn
  | rdat | beginwr | irq | mirror | copyframe | tryacq | rel | initseq | detach
  | regWinX0L | regWinX0H | regWinY0L | regWinY0H | regWinX1L | regWinX1H | regWinY1L | regWinY1H
  | regCurXL | regCurXH | regCurYL | regCurYH | regMrw | regFgColor => rfl

/-- Settles O2: each word is a closed term, and the decoder computes what it stands for. -/
theorem decodeSpecWords : Obligations.DecodeSpecWords := by
  unfold Obligations.DecodeSpecWords
  decide

end Sys2Proof

namespace Sys2Proof.Machine

/-! ### The step of an encoded operation -/

/-- Settles O4: the step takes the entry away, decodes it and runs what it stands for. -/
theorem stepRunsDecoded : Obligations.StepRunsDecoded := by
  intro s f bs rest i hin hdec
  simp only [step, fetch, hin, hdec]

end Sys2Proof.Machine
end

section
/-! PROOFS. BusChannel and ControllerState (40_buschannel.md, 41_controllerstate.md): one transaction and the sequences,
delivered or answered with `Fault`, and what they make of the reference chip. -/

namespace Sys2Proof.Machine

/-! ### One transaction -/

/-- The state a delivered transaction leaves (R120, R121). -/
theorem busTransaction_delivered (w : BusWord) {s : State} (hb : busDelivers s 1) :
    (busTransaction w s).final = { s with
      busPlan := busPlanAfter s 1
      trace := s.trace ++ [w]
      ctl := wordCtl s.cfg w s.ctl
      chip := chipRun s.cfg s.engineActive [w] s.chip } := by
  rw [busTransaction_of_delivers w s hb]
  rfl

/-- A command leaves a burst armed only where it selects `REG_MRW` again (R120). -/
theorem wordCtl_cmdWord (p : Params) (a : Half) (c : Ctl) :
    wordCtl p (cmdWord a) c =
      { c with sel := a, selValid := true, writeArmed := if a = p.regMrw then c.writeArmed else false } := by
  by_cases h : a = p.regMrw <;> simp [wordCtl, cmdWord, cmdCtl, h]

/-- A data word moves the pointer of an armed burst away from the recorded cursor (R121). -/
theorem wordCtl_datWord (p : Params) (v : Half) (c : Ctl) :
    wordCtl p (datWord v) c =
      { c with shd := v, shdValid := true, curValid := if c.writeArmed then false else c.curValid } := by
  cases h : c.writeArmed <;> simp [wordCtl, datWord, datCtl, h]

section
variable {s : State} (hd : s.dev = .attached) (hg : s.gate ≠ .free)
include hd hg

theorem exec_wcmd_held (a : Half) : exec (.wcmd a) s = .next (busTransaction (cmdWord a) s).final := by
  simp only [exec, execWcmd, byHolder_held _ hd hg]

theorem exec_wdat_held (v : Half) : exec (.wdat v) s = .next (busTransaction (datWord v) s).final := by
  simp only [exec, execWdat, byHolder_held _ hd hg]

theorem exec_rdat_held : exec .rdat s = .next (readShadow s) := by
  simp only [exec, execRdat, byHolder_held _ hd hg]

theorem exec_setcur_held (x y : Half) : exec (.setcur x y) s = .next (runBare (setcurSteps x y) s).final := by
  simp only [exec, execSetcur, byHolder_held _ hd hg]

theorem exec_setwin_held (x0 x1 y0 y1 : Half) :
    exec (.setwin x0 x1 y0 y1) s = .next (runBare (setwinSteps s.cfg x0 x1 y0 y1) s).final := by
  simp only [exec, execSetwin, byHolder_held _ hd hg]

theorem exec_beginwr_held : exec .beginwr s = .next (runBare (beginwrSteps s.cfg) s).final := by
  simp only [exec, execBeginwr, byHolder_held _ hd hg]

/-- A register row is `WCMD` of its address (R96, log entry 25). -/
theorem selectRegister_held (address : Params → Half) :
    selectRegister address s = exec (.wcmd (address s.cfg)) s := by
  rw [exec_wcmd_held hd hg]
  exact byHolder_held _ hd hg

end

/-- Settles O6: one delivered transaction, a command. -/
theorem wcmdDelivers : Obligations.WcmdDelivers := by
  intro a s hd hg hb
  rw [exec_wcmd_held hd hg, busTransaction_delivered _ hb, wordCtl_cmdWord]

/-- Settles O7: one delivered transaction, a data word. -/
theorem wdatDelivers : Obligations.WdatDelivers := by
  intro v s hd hg hb
  rw [exec_wdat_held hd hg, busTransaction_delivered _ hb, wordCtl_datWord]

/-- Settles O8, by `shd_valid`. -/
theorem rdatReturnsShadow : Obligations.RdatReturnsShadow := by
  intro s hd hg
  rw [exec_rdat_held hd hg]
  exact ⟨fun hv => by simp [readShadow, hv], fun hv => ⟨_, by simp only [readShadow, hv]; rfl⟩⟩

/-- Settles O9: each row is the `WCMD` of its address. -/
theorem chipRegistersSelect : Obligations.ChipRegistersSelect := by
  intro s i a hi hd hg hb
  have hrow : exec i s = exec (.wcmd a) s := by
    simp only [List.mem_cons, Prod.mk.injEq, List.not_mem_nil, or_false] at hi
    rcases hi with ⟨rfl, rfl⟩ | ⟨rfl, rfl⟩ | ⟨rfl, rfl⟩ | ⟨rfl, rfl⟩ | ⟨rfl, rfl⟩ | ⟨rfl, rfl⟩ | ⟨rfl, rfl⟩ | ⟨rfl, rfl⟩
      | ⟨rfl, rfl⟩ | ⟨rfl, rfl⟩ | ⟨rfl, rfl⟩ | ⟨rfl, rfl⟩ | ⟨rfl, rfl⟩ | ⟨rfl, rfl⟩ <;>
      exact selectRegister_held hd hg fun p => _
  rw [hrow]
  exact wcmdDelivers a s hd hg hb

/-! ### The sequences, delivered -/

/-- Settles O11, by the closed form of a delivered list. -/
theorem setcurCompletes : Obligations.SetcurCompletes := by
  intro x y s hd hg hp hb
  rw [exec_setcur_held hd hg, runBare_delivered (busOnly_setcur x y) s hb, busWords_setcur, stepsCtl_setcur hp]
  rfl

/-- Settles O12, by the closed form of a delivered list. -/
theorem setwinCompletes : Obligations.SetwinCompletes := by
  intro x0 x1 y0 y1 s hd hg hp hb
  rw [exec_setwin_held hd hg, runBare_delivered (busOnly_setwin s.cfg x0 x1 y0 y1) s hb, busWords_setwin,
    stepsCtl_setwin hp]
  rfl

/-- Settles O13, by the closed form of a delivered list of one. -/
theorem beginwrCompletes : Obligations.BeginwrCompletes := by
  intro s hd hg hb
  rw [exec_beginwr_held hd hg, runBare_delivered (busOnly_beginwr s.cfg) s hb, busWords_beginwr, stepsCtl_beginwr]
  rfl

/-! ### A sequence that faults part-way -/

/-- The recorded cursor and window (R130, R131). -/
structure RecordedView where
  curX : Half
  curY : Half
  winX0 : Half
  winX1 : Half
  winY0 : Half
  winY1 : Half

/-- The cursor and the window the registers hold, trusted or not. -/
def recordedOf (c : Ctl) : RecordedView := ⟨c.curX, c.curY, c.winX0, c.winX1, c.winY0, c.winY1⟩

/-- The mark records a cursor or a window. -/
def Mark.records : Mark → Bool
  | .windowSet _ _ _ _ => true
  | .cursorSet _ _ => true
  | .none | .windowOpens | .cursorOpens | .armed => false

theorem recordedOf_markCtl {m : Mark} (h : m.records = false) (c : Ctl) : recordedOf (markCtl m c) = recordedOf c := by
  cases m with
  | windowSet | cursorSet => cases h
  | none | windowOpens | cursorOpens | armed => rfl

theorem recordedOf_wordCtl (p : Params) (w : BusWord) (c : Ctl) : recordedOf (wordCtl p w c) = recordedOf c := by
  obtain ⟨sel, v⟩ := w
  cases sel <;> rfl

/-- The micro-step records a cursor or a window, before its transaction or after it. -/
def Micro.records : Micro → Bool
  | .bus _ before after => before.records || after.records
  | .copyByte _ | .engineStart => false

/-- The micro-step records a cursor or a window before its transaction. -/
def Micro.recordsBefore : Micro → Bool
  | .bus _ before _ => before.records
  | .copyByte _ | .engineStart => false

theorem recordedOf_microCtl (p : Params) {m : Micro} (h : m.records = false) (c : Ctl) :
    recordedOf (microCtl p c m) = recordedOf c := by
  cases m with
  | bus w before after =>
    obtain ⟨hb, ha⟩ := Bool.or_eq_false_iff.1 h
    rw [microCtl, recordedOf_markCtl ha, recordedOf_wordCtl, recordedOf_markCtl hb]
  | copyByte | engineStart => rfl

theorem recordedOf_stepsCtl (p : Params) {ms : List Micro} (h : ∀ m ∈ ms, m.records = false) (c : Ctl) :
    recordedOf (stepsCtl p ms c) = recordedOf c := by
  induction ms generalizing c with
  | nil => rfl
  | cons m ms ih =>
    exact (ih (fun m hm => h m (by simp [hm])) (microCtl p c m)).trans (recordedOf_microCtl p (h m (by simp)) c)

/-- A sequence whose last micro-step alone records, and only after its transaction, records nothing when it faults. -/
theorem runBare_faulted_recorded {ms : List Micro} (hb : BusOnly ms) (hlast : ∀ m ∈ ms.dropLast, m.records = false)
    (hbefore : ∀ m ∈ ms, m.recordsBefore = false) {s : State} {n : Nat}
    (hp : s.busPlan = some n) (hn : n < ms.length) :
    ∃ t, (runBare ms s).final = takeBusFault t ∧ t.trace = s.trace ++ (busWords ms).take n
      ∧ recordedOf t.ctl = recordedOf s.ctl ∧ t.fb = s.fb ∧ t.sb = s.sb := by
  obtain ⟨c, hrun, w, before, after, hget, hc⟩ := runMicros_faulted countOnly_id hb s hp hn
  have htake : ∀ m ∈ ms.take n, m.records = false := fun m hm => by
    have hsub : ms.take n = ms.dropLast.take n := by
      rw [List.dropLast_eq_take, List.take_take, min_eq_left (by omega)]
    rw [hsub] at hm
    exact hlast m (List.mem_of_mem_take hm)
  refine ⟨_, by rw [runBare, hrun, Run.final], rfl, ?_, ?_, ?_⟩
  · show recordedOf c = _
    rw [hc, recordedOf_markCtl (hbefore _ (List.mem_of_getElem? hget)), recordedOf_stepsCtl _ htake]
  · simp
  · simp

theorem records_setcur (x y : Half) :
    (∀ m ∈ (setcurSteps x y).dropLast, m.records = false) ∧ ∀ m ∈ setcurSteps x y, m.recordsBefore = false := by
  simp [setcurSteps, regw, plain, Micro.records, Micro.recordsBefore, Mark.records]

theorem records_setwin (p : Params) (x0 x1 y0 y1 : Half) :
    (∀ m ∈ (setwinSteps p x0 x1 y0 y1).dropLast, m.records = false)
      ∧ ∀ m ∈ setwinSteps p x0 x1 y0 y1, m.recordsBefore = false := by
  simp [setwinSteps, regw, plain, Micro.records, Micro.recordsBefore, Mark.records]

/-- Settles O14: either sequence records only after its last transaction, and the BusFault trusts nothing. -/
theorem sequenceFaultKeepsRegisters : Obligations.SequenceFaultKeepsRegisters := by
  intro i ws n s hi hd hg hp hn
  obtain ⟨ms, hexec, hb, hws, hlast, hbefore⟩ : ∃ ms, exec i s = .next (runBare ms s).final ∧ BusOnly ms
      ∧ busWords ms = ws ∧ (∀ m ∈ ms.dropLast, m.records = false) ∧ ∀ m ∈ ms, m.recordsBefore = false := by
    rcases hi with ⟨x, y, rfl, rfl⟩ | ⟨x0, x1, y0, y1, rfl, rfl⟩
    · exact ⟨_, exec_setcur_held hd hg x y, busOnly_setcur x y, busWords_setcur x y, records_setcur x y⟩
    · exact ⟨_, exec_setwin_held hd hg x0 x1 y0 y1, busOnly_setwin _ _ _ _ _, busWords_setwin _ _ _ _ _,
        records_setwin _ _ _ _ _⟩
  rw [← hws, busWords_length hb] at hn
  obtain ⟨t, hrun, htrace, hrec, hfb, hsb⟩ := runBare_faulted_recorded hb hlast hbefore hp hn
  obtain ⟨hgate, hun, hctl, -, htr, hfb', hsb', -⟩ := takeBusFault_always t
  simp only [recordedOf, RecordedView.mk.injEq] at hrec
  obtain ⟨hcx, hcy, hx0, hx1, hy0, hy1⟩ := hrec
  refine ⟨takeBusFault t, hrun ▸ hexec, by rw [htr, htrace, hws], ?_⟩
  rw [hctl, hun, hgate, hfb', hsb']
  exact ⟨hcx, hcy, hx0, hx1, hy0, hy1, rfl, rfl, rfl, rfl, rfl, hfb, hsb⟩

/-! ### The reference chip after both sequences -/

/-- What is delivered of the bus's answers is no longer to come. -/
theorem busDelivers_after {s t : State} {n m : Nat} (h : busDelivers s (n + m)) (ht : t.busPlan = busPlanAfter s n) :
    busDelivers t m := by
  intro k hk
  rw [ht, busPlanAfter, Option.map_eq_some_iff] at hk
  obtain ⟨j, hj, rfl⟩ := hk
  have := h j hj
  omega

theorem busDelivers_of_le {s : State} {n m : Nat} (h : busDelivers s n) (hm : m ≤ n) : busDelivers s m :=
  fun k hk => hm.trans (h k hk)

/-- The window-set and the cursor-set sequence leave the chip's window and pointer where they say (R70); the display is as it
was, or undefined with the pointer outside the window (U1) or the engine's pass under way (U10). -/
theorem chipRun_window_cursor {p : Params} (hp : paramsWf p = true) (e : Bool) (x0 x1 y0 y1 x y : Half) (c : Chip) :
    ∃ d, chipRun p e (cursorWords x y) (chipRun p e (windowWords p x0 x1 y0 y1) c) = d
      ∧ d.csel = some regCurYH ∧ d.window = some ⟨x0.toNat, x1.toNat, y0.toNat, y1.toNat⟩
      ∧ d.pointer = some (x.toNat, y.toNat) ∧ d.engineTraffic = e
      ∧ d.vram = if e = false ∧ x0.toNat ≤ x.toNat ∧ x.toNat ≤ x1.toNat ∧ y0.toNat ≤ y.toNat ∧ y.toNat ≤ y1.toNat
          then c.vram else [] := by
  obtain ⟨g, hw⟩ := chipRun_window hp e x0 x1 y0 y1 c
  obtain ⟨g', hc⟩ := chipRun_cursor hp e x y (chipRun p e (windowWords p x0 x1 y0 y1) c) (by rw [hw])
  refine ⟨_, hc, rfl, by rw [hw], rfl, by rw [hw]; exact Bool.or_self e, ?_⟩
  rw [hw]
  cases e with
  | true => simp
  | false =>
    by_cases hin : x0.toNat ≤ x.toNat ∧ x.toNat ≤ x1.toNat ∧ y0.toNat ≤ y.toNat ∧ y.toNat ≤ y1.toNat <;>
      simp [pointerOutside, insideRect, hin]

/-- Settles O15: the two sequences one after the other, each in closed form. -/
theorem chipFollowsWindowAndCursor : Obligations.ChipFollowsWindowAndCursor := by
  intro x0 x1 y0 y1 x y s hd hg hp hb
  have ht := setwinCompletes x0 x1 y0 y1 s hd hg hp (busDelivers_of_le hb (by decide))
  obtain ⟨d, hchip, hcsel, hwin, hptr, -, hvram⟩ := chipRun_window_cursor hp s.engineActive x0 x1 y0 y1 x y s.chip
  refine ⟨_, _, ht, setcurCompletes x y _ hd hg hp (busDelivers_after (n := 16) (m := 8) hb rfl), rfl, rfl, ?_⟩
  simp only [hchip]
  refine ⟨hwin, hptr, hcsel, fun px py => ?_⟩
  rw [chipCell, hvram]
  split <;> rfl

/-! ### A transaction that faults -/

/-- What becomes of the foreground agents when the device is lost to agent `k` (R213). -/
theorem modify_slot_deviceLost (fgs : List Fg) (k : Nat) (v : Slot) :
    ((fgs.map fun f => { f with slot := failSlot f.slot }).modify k fun f => { f with slot := v }) =
      (deviceLost fgs).modify k (withSlot v) := by
  rw [failSlot_eq_deviceLost]
  rfl

/-- The whole state a BusFault leaves while a foreground agent holds the gate (R213). -/
theorem takeBusFault_fg_state {s : State} {k : Nat} (hg : s.gate = .heldFG k) :
    takeBusFault s = { s with
      unusable := true
      ctl := { s.ctl with winValid := false, curValid := false, writeArmed := false }
      chip := unknownChip
      gate := .free
      fgs := (deviceLost s.fgs).modify k (withSlot (.done .busFault)) } := by
  rw [takeBusFault_fg hg, ← modify_slot_deviceLost]
  rfl

/-- The whole state a BusFault leaves while `IRQA` holds the gate (R214). -/
theorem takeBusFault_irq_state {s : State} (hg : s.gate = .heldIRQ) :
    takeBusFault s = { s with
      unusable := true
      ctl := { s.ctl with winValid := false, curValid := false, writeArmed := false }
      chip := unknownChip
      faultCount := s.faultCount + 1
      gate := .free
      mirror := .idle
      handler := .idle
      fgs := deviceLost s.fgs } := by
  rw [takeBusFault_irq hg, ← failSlot_eq_deviceLost]
  rfl

/-- Either transaction, answered with `Fault`, takes the BusFault. -/
theorem exec_word_fault {s : State} (hd : s.dev = .attached) (hg : s.gate ≠ .free) (hp : s.busPlan = some 0) {a v : Half}
    {i : Instr} (hi : i ∈ [Instr.wcmd a, .wdat v]) : exec i s = .next (takeBusFault { s with busPlan := none }) := by
  simp only [List.mem_cons, List.not_mem_nil, or_false] at hi
  rcases hi with rfl | rfl
  · rw [exec_wcmd_held hd hg, busTransaction_of_fault _ s hp, Run.final]
  · rw [exec_wdat_held hd hg, busTransaction_of_fault _ s hp, Run.final]

/-- Settles O16: the BusFault is taken at once, from a foreground holder. -/
theorem busFaultInForeground : Obligations.BusFaultInForeground := by
  intro a v k s hd hg hp i hi
  rw [exec_word_fault hd (by simp [hg]) hp hi, takeBusFault_fg_state (s := { s with busPlan := none }) hg]

/-- Settles O17: the BusFault is taken at once, from `IRQA`. -/
theorem busFaultInMirror : Obligations.BusFaultInMirror := by
  intro a v s hd hg hp i hi
  rw [exec_word_fault hd (by simp [hg]) hp hi, takeBusFault_irq_state (s := { s with busPlan := none }) hg]

end Sys2Proof.Machine
end

section
/-! PROOFS. RequestArbiter (44_requestarbiter.md): what a port answers, `ACQ`, `TRYACQ` and `REL`, the wait, and the caller
who takes a result. -/

namespace Sys2Proof.Machine

/-! ### What a port answers -/

/-- A descriptor is decodable exactly when `H0` is a request code and its must-be-zero fields are 0 (R105, R106). -/
theorem decodeRequest_ok_iff (d : Descriptor) :
    (∃ r, decodeRequest d = .ok r) ↔
      (d.h0 = 0x0001 ∧ d.h5 = 0) ∨ d.h0 = 0x0002 ∨ (d.h0 = 0x0003 ∧ d.h4 = 0 ∧ d.h5 = 0) := by
  have hcode : ∀ c : Half, d.h0 = c ↔ d.h0.toNat = c.toNat := fun c => BitVec.toNat_inj.symm
  simp only [hcode, decodeRequest]
  split
  case h_1 h => by_cases h5 : d.h5 = 0#16 <;> simp [h, h5]
  case h_2 h => simp [h]
  case h_3 h => by_cases hz : d.h4 = 0#16 ∧ d.h5 = 0#16 <;> simp [h, hz]
  case h_4 h1 h2 h3 =>
    have hcodes : d.h0.toNat ≠ 1 ∧ d.h0.toNat ≠ 2 ∧ d.h0.toNat ≠ 3 := ⟨h1, h2, h3⟩
    simp [hcodes]

theorem portAnswer_of_undecodable {d : Descriptor} (h : ¬ ∃ r, decodeRequest d = .ok r) (s : State) :
    portAnswer d s = .done .illegal := by
  unfold portAnswer
  split
  · rfl
  · exact absurd ⟨_, ‹_›⟩ h

theorem portAnswer_of_lost {d : Descriptor} (h : ∃ r, decodeRequest d = .ok r) {s : State}
    (hs : s.dev = .detached ∨ s.unusable = true) : portAnswer d s = .done .busFault := by
  obtain ⟨r, hr⟩ := h
  simp [portAnswer, hr, hs]

/-- Settles O20: `Illegal` goes before the state of the device (R218). -/
theorem submitRefusals : Obligations.SubmitRefusals := by
  intro k d s hs
  rw [← decodeRequest_ok_iff, exec_submit_of_empty hs]
  refine ⟨fun hdec hlost => ?_, fun hdec => ?_⟩
  · rw [portAnswer_of_lost hdec hlost]
    rfl
  · rw [portAnswer_of_undecodable hdec]
    rfl

/-- R141: a fill is valid exactly when its rectangle is ordered and on the screen and it declares no payload. -/
theorem validRequest_fillrect_iff (w h : Nat) (x0 x1 y0 y1 c : Half) (plen : Nat) :
    validRequest w h (.fillrect x0 x1 y0 y1 c plen) = true ↔
      x0.toNat ≤ x1.toNat ∧ x1.toNat ≤ w - 1 ∧ y0.toNat ≤ y1.toNat ∧ y1.toNat ≤ h - 1 ∧ plen = 0 :=
  decide_eq_true_iff

/-- R146: a text run is valid exactly when its origin is on the screen. -/
theorem validRequest_textrun_iff (w h : Nat) (x y c : Half) (bytes : List Byte) :
    validRequest w h (.textrun x y c bytes) = true ↔ x.toNat ≤ w - 1 ∧ y.toNat ≤ h - 1 :=
  decide_eq_true_iff

/-- The declared length is 0 exactly when both its words are (R104). -/
theorem plen_eq_zero_iff (d : Descriptor) : d.plen = 0 ↔ d.h6 = 0 ∧ d.h7 = 0 := by
  rw [← BitVec.toNat_inj, ← BitVec.toNat_inj, Descriptor.plen]
  show _ ↔ d.h6.toNat = 0 ∧ d.h7.toNat = 0
  omega

/-- Settles O21: the descriptor is decoded to its fill, and the port answers by R141. -/
theorem submitFillrect : Obligations.SubmitFillrect := by
  intro k d s hs hd hu h0
  have hv := validRequest_fillrect_iff s.width s.height d.h1 d.h2 d.h3 d.h4 d.h5 d.plen
  rw [plen_eq_zero_iff] at hv
  have hans := (portAnswer_of_usable (decodeRequest_fillrect h0) hd hu).trans (if_congr hv rfl rfl)
  rw [exec_submit_of_empty hs, hans]
  split
  case isTrue hc =>
    obtain ⟨-, -, -, -, hz⟩ := hc
    rw [(plen_eq_zero_iff d).2 hz]
    rfl
  case isFalse => rfl

/-- Settles O23: the descriptor is decoded to its text run, and the port answers by R146. -/
theorem submitTextrun : Obligations.SubmitTextrun := by
  intro k d s hs hd hu h0 h4 h5 hwf
  have hans := (portAnswer_of_usable (decodeRequest_textrun h0 h4 h5 hwf) hd hu).trans
    (if_congr (validRequest_textrun_iff s.width s.height d.h1 d.h2 d.h3 d.payload) rfl rfl)
  rw [exec_submit_of_empty hs, hans]
  rfl

/-! ### The gate and the wait -/

theorem exec_acq_of_waiting {k : Nat} {r : Request} {t : Nat} {s : State} (hs : slotOf s k = some (.waiting r t)) :
    exec (.acq k) s = .next (acquire k r t s) := by
  simp only [exec, execAcq, hs]

theorem acquire_of_free {k : Nat} {r : Request} {t : Nat} {s : State} (hd : s.dev = .attached) (hu : s.unusable = false)
    (hg : s.gate = .free) : acquire k r t s = setSeqPc k 0 (setSlot k (.running r) { s with gate := .heldFG k }) := by
  simp [acquire, hd, hu, hg]

theorem acquire_of_held {k : Nat} {r : Request} {t : Nat} {s : State} (hd : s.dev = .attached) (hu : s.unusable = false)
    (hg : s.gate ≠ .free) :
    acquire k r t s = if s.cfg.arbTimeout ≤ t then setSlot k (.done .arbitrationTimeout) s else s := by
  unfold acquire
  rw [if_neg (by simp [hd, hu])]
  split
  · exact absurd ‹_› hg
  · rfl
  · rfl

/-- Settles O24: the slot and its position change at one place. -/
theorem acqTakesFreeGate : Obligations.AcqTakesFreeGate := by
  intro k r t s hs hd hu hg
  rw [exec_acq_of_waiting hs, acquire_of_free hd hu hg]
  simp only [setSeqPc, setSlot, List.modify_modify_eq]
  rfl

/-- One `Tick` is one more for whoever waits (R185). -/
theorem tickSlot_eq_oneTickLater (fgs : List Fg) :
    (fgs.map fun f => { f with slot := tickSlot f.slot }) = oneTickLater fgs := by
  unfold oneTickLater
  refine List.map_congr_left fun f _ => ?_
  obtain ⟨slot, n⟩ := f
  cases slot <;> rfl

/-- Settles O25: a held gate leaves the wait and its bound (R185), and a `Tick` is the wait's. -/
theorem acqWaitsOrTimesOut : Obligations.AcqWaitsOrTimesOut := by
  refine ⟨fun k r t s hs hd hu hg => ?_, fun s => ?_⟩
  · rw [exec_acq_of_waiting hs]
    rw [acquire_of_held hd hu hg]
    rfl
  · rw [← tickSlot_eq_oneTickLater]
    rfl

theorem handlerReturn_of_idle {s : State} (hm : s.mirror = .idle) : handlerReturn s = { s with handler := .idle } := by
  rw [handlerReturn, ← hm]

/-- Settles O26, by whether the gate is free. -/
theorem tryacqAcquiresOrSkips : Obligations.TryacqAcquiresOrSkips := by
  intro s hd hh hu hm
  have hopen : gateOpen s = true ↔ s.gate = .free := by simp [gateOpen, hu]
  simp only [exec, execTryacq, hd, hh, and_self, if_true, tryAcquire, hopen, handlerReturn_of_idle hm]

/-! ### The completion -/

theorem exec_rel_of_done {s : State} (hd : s.dev = .attached) (hr : holderRest s = some []) :
    exec .rel s = .next (release s) := by
  simp [exec, execRel, hd, hr]

/-- The micro-steps of a request whose payload has its length are as many as its transactions (R184 step 6). -/
theorem length_requestSteps (p : Params) (w h : Nat) {r : Request}
    (hr : ∀ x0 y0 bw bh bytes, r = .blit x0 y0 bw bh bytes → bytes.length = bw.toNat * bh.toNat * 2) :
    (requestSteps p w h r).length = (requestWords p w h r).length := by
  rw [← busWords_length (busOnly_request p w h r)]
  cases r with
  | blit x0 y0 bw bh bytes => exact congrArg _ (busWords_blit p w h x0 y0 bw bh bytes (hr _ _ _ _ _ rfl))
  | fillrect => exact congrArg _ (busWords_fillrect ..)
  | textrun => exact congrArg _ (busWords_textrun ..)

/-- What a foreground holder has left, by its position (R26). -/
theorem holderRest_of_running {s : State} {k n : Nat} {r : Request} (hg : s.gate = .heldFG k)
    (hf : s.fgs[k]? = some ⟨.running r, n⟩) : holderRest s = some ((requestSteps s.cfg s.width s.height r).drop n) := by
  simp only [holderRest, hg, slotOf_of_getElem? hf, requestRest, seqPcOf_of_getElem? hf]

/-- Settles O27: at the last position nothing is left, and the release is the holder's. -/
theorem relCompletes : Obligations.RelCompletes := by
  intro s hd
  refine ⟨fun k r hg hf hblit => ?_, fun hg hm hpc => ?_⟩
  · have hrest : holderRest s = some [] := by
      rw [holderRest_of_running hg hf, List.drop_eq_nil_of_le (length_requestSteps _ _ _ hblit).le]
    rw [exec_rel_of_done hd hrest, release_fg hg]
    rfl
  · have hrest : holderRest s = some [] := by
      rw [holderRest_of_mirroring hg hm, mirrorRest, List.drop_eq_nil_of_le (by rw [length_mirror, hpc])]
    rw [exec_rel_of_done hd hrest, release_irq hg]
    rfl

/-- The drawing operation a request is the body of runs as that request (R148). -/
theorem exec_drawingOf (r : Request) (s : State) : exec (drawingOf r) s = drawing r s := by
  cases r with
  | blit => rfl
  | fillrect x0 x1 y0 y1 c plen => simp only [drawingOf, exec, execFillrect, List.length_replicate]
  | textrun => rfl

/-- On the held gate a request that fails validation ends with SizeMismatch (log entry 14). -/
theorem drawing_of_invalid {r : Request} {k : Nat} {s : State} (hd : s.dev = .attached) (hg : s.gate = .heldFG k)
    (hs : slotOf s k = some (.running r)) (hv : validRequest s.width s.height r = false) :
    drawing r s = .next (endRequest k .sizeMismatch s) := by
  simp [drawing, hd, hg, hs, hv]

/-- A valid request runs to its end (R149). -/
theorem drawing_of_valid {r : Request} {k : Nat} {s : State} (hd : s.dev = .attached) (hg : s.gate = .heldFG k)
    (hs : slotOf s k = some (.running r)) (hv : validRequest s.width s.height r = true) :
    drawing r s = .next (holderRun s) := by
  simp [drawing, hd, hg, hs, hv]

/-- Settles O31: the check comes before the first micro-step. -/
theorem invalidDrawingSendsNothing : Obligations.InvalidDrawingSendsNothing := by
  intro r k s hd hg hs hv
  rw [exec_drawingOf, drawing_of_invalid hd hg hs hv]
  rfl

/-- Settles O48: the slot holds a result to hand over. -/
theorem callerTakesResult : Obligations.CallerTakesResult := by
  intro k res s hs
  simp only [takeResult, hs]
  rfl

end Sys2Proof.Machine
end

section
/-! PROOFS. The handler's steps (43_mirrorpipeline.md R161), the lifecycle (45_lifecycle.md), the external writers, and the
states in which nothing is left to do. -/

namespace Sys2Proof.Machine

/-! ### The handler -/

/-- Settles O36: two steps, and a value without its own bits is 0. -/
theorem handlerReadsAndAcknowledges : Obligations.HandlerReadsAndAcknowledges := by
  intro s hd hh hp
  rw [irqaStep_of_pending hd hh hp, irqaStep_of_ack (s := handlerEnter s) (v := s.hostStatus) hd rfl]
  have hclear : s.hostStatus &&& ~~~s.hostStatus = 0 := BitVec.and_not_self _
  simp only [handlerAck, handlerEnter, hclear, List.append_assoc, List.cons_append, List.nil_append]

/-- Settles O37, in the order of the rule. -/
theorem handlerDecides : Obligations.HandlerDecides := by
  intro v s hd hh hm
  have hclass : syncLoss v = true ↔ v.getLsbD 2 = true ∨ v.getLsbD 5 = true := by simp [syncLoss]
  rw [irqaStep_of_decide hd hh]
  simp only [handlerDecide, hclass, handlerReturn_of_idle hm]
  rw [handlerReturn_of_idle (s := { s with faultCount := countUp s.faultCount }) hm]
  rfl

/-! ### `ATTACH` and `INITSEQ` -/

theorem attachAccepts_iff (w h n : Nat) :
    attachAccepts w h n = true ↔ 1 ≤ w ∧ w ≤ 65536 ∧ 1 ≤ h ∧ h ≤ 65536 ∧ n = w * h * 2 :=
  decide_eq_true_iff

theorem exec_attach_of_accepts {w h b n : Nat} {s : State} (hd : s.dev = .detached) (ha : attachAccepts w h n = true) :
    exec (.attach w h b n) s = .next (replayInit (attachReset w h b s)) := by
  simp [exec, execAttach, hd, ha]

/-- Settles O43: the acceptance of R195 fails. -/
theorem attachRefusesBadArguments : Obligations.AttachRefusesBadArguments := by
  intro w h b n s hd hbad
  have ha : attachAccepts w h n = false := by rw [← Bool.not_eq_true, attachAccepts_iff]; exact hbad
  simp [exec, execAttach, hd, ha]

/-- The initialisation, delivered (R196). -/
theorem replayInit_delivered {s : State} (hb : busDelivers s (initWords s.cfg).length) :
    replayInit s = { s with
      initDue := false
      busPlan := busPlanAfter s (initWords s.cfg).length
      trace := s.trace ++ initWords s.cfg
      chip := chipAfterInit (chipRun s.cfg s.engineActive (initWords s.cfg) s.chip)
      ctl := stepsCtl s.cfg (initseqSteps s.cfg) s.ctl } := by
  unfold replayInit
  rw [runBare_delivered (busOnly_initseq s.cfg) { s with initDue := false } (by rw [length_initseq]; exact hb),
    busWords_initseq, length_initseq]
  rfl

theorem records_initseq (p : Params) : ∀ m ∈ initseqSteps p, m.records = false := by
  simp only [initseqSteps, List.mem_flatMap, regw, List.mem_cons, List.not_mem_nil, or_false]
  rintro m ⟨e, -, rfl | rfl⟩ <;> rfl

/-- Outside a burst, register writes leave the burst unarmed and the cursor as trusted as it was (R120, R121). -/
theorem unarmed_flatMap_regw {α : Type} (p : Params) (f g : α → Half) (l : List α) {c : Ctl} (h : c.writeArmed = false) :
    (stepsCtl p (l.flatMap fun a => regw (f a) (g a)) c).curValid = c.curValid
      ∧ (stepsCtl p (l.flatMap fun a => regw (f a) (g a)) c).writeArmed = false := by
  induction l generalizing c with
  | nil => exact ⟨rfl, h⟩
  | cons a l ih =>
    rw [List.flatMap_cons, stepsCtl_append]
    have hstep : (stepsCtl p (regw (f a) (g a)) c).curValid = c.curValid
        ∧ (stepsCtl p (regw (f a) (g a)) c).writeArmed = false := by
      simp [stepsCtl, regw, plain, microCtl, markCtl, wordCtl, cmdWord, datWord, cmdCtl, datCtl, h]
    exact ⟨(ih hstep.2).1.trans hstep.1, (ih hstep.2).2⟩

/-- The last tuple of the table is what the shadows hold (R196). -/
theorem stepsCtl_initseq_last {p : Params} {e : InitEntry} (h : p.initTable.getLast? = some e) (c : Ctl) :
    (stepsCtl p (initseqSteps p) c).sel = e.reg ∧ (stepsCtl p (initseqSteps p) c).shd = e.value
      ∧ (stepsCtl p (initseqSteps p) c).selValid = true ∧ (stepsCtl p (initseqSteps p) c).shdValid = true := by
  obtain ⟨l, hl⟩ := List.getLast?_eq_some_iff.1 h
  rw [initseqSteps, hl, List.flatMap_append, stepsCtl_append]
  exact ⟨rfl, rfl, rfl, rfl⟩

theorem stepsCtl_initseq_nil {p : Params} (h : p.initTable = []) (c : Ctl) : stepsCtl p (initseqSteps p) c = c := by
  rw [initseqSteps, h]
  rfl

/-- The initialisation leaves `CUR_*`, `WIN_*` and `win_valid` alone (R196). -/
theorem stepsCtl_initseq_frame (p : Params) (c : Ctl) :
    recordedOf (stepsCtl p (initseqSteps p) c) = recordedOf c
      ∧ (stepsCtl p (initseqSteps p) c).winValid = c.winValid := by
  have hwin : windowOf (stepsCtl p (initseqSteps p) c) = windowOf c := by
    rw [windowOf_stepsCtl, stepsWindow_of_leaves (leavesWindow_initseq p)]
  exact ⟨recordedOf_stepsCtl p (records_initseq p) c, congrArg WindowView.valid hwin⟩

/-- Settles O44: the table replayed, delivered, in closed form. -/
theorem initseqReplays : Obligations.InitseqReplays := by
  intro s hd hi hb
  obtain ⟨hrec, hvalid⟩ := stepsCtl_initseq_frame s.cfg s.ctl
  simp only [recordedOf, RecordedView.mk.injEq] at hrec
  obtain ⟨hcx, hcy, hx0, hx1, hy0, hy1⟩ := hrec
  refine ⟨stepsCtl s.cfg (initseqSteps s.cfg) s.ctl, ?_, hcx, hcy, hx0, hx1, hy0, hy1, hvalid,
    fun h => unarmed_flatMap_regw _ _ _ _ h, fun h => stepsCtl_initseq_nil h _, fun e h => stepsCtl_initseq_last h _⟩
  simp only [exec, execInitseq, hd, hi, and_self, if_true, replayInit_delivered hb]

/-- Settles O42: the ATTACH column of R39, then the table replayed. -/
theorem attachCompletes : Obligations.AttachCompletes := by
  intro w h b n s hd hw hw' hh hh' hn hb
  have ha : attachAccepts w h n = true := (attachAccepts_iff w h n).2 ⟨hw, hw', hh, hh', hn⟩
  obtain ⟨hrec, hvalid⟩ := stepsCtl_initseq_frame s.cfg (attachCtl w h s.freeCtr)
  simp only [recordedOf, RecordedView.mk.injEq] at hrec
  obtain ⟨hcx, hcy, hx0, hx1, hy0, hy1⟩ := hrec
  obtain ⟨hcur, harmed⟩ : _ ∧ (stepsCtl s.cfg (initseqSteps s.cfg) (attachCtl w h s.freeCtr)).writeArmed = false :=
    unarmed_flatMap_regw s.cfg InitEntry.reg InitEntry.value s.cfg.initTable (c := attachCtl w h s.freeCtr) rfl
  refine ⟨stepsCtl s.cfg (initseqSteps s.cfg) (attachCtl w h s.freeCtr), ?_, hcx, hcy, hx0, ?_, hy0, ?_, hvalid, hcur,
    harmed, fun hnil => ?_, fun e he => stepsCtl_initseq_last he _⟩
  · rw [exec_attach_of_accepts hd ha, replayInit_delivered (s := attachReset w h b s) hb]
    rfl
  · rw [hx1]
    exact lastCoord_toNat hw'
  · rw [hy1]
    exact lastCoord_toNat hh'
  · rw [stepsCtl_initseq_nil hnil]
    exact ⟨rfl, rfl⟩

/-- The initialisation, its transaction number `n` answered with `Fault` (R197). -/
theorem replayInit_faulted {s : State} {n : Nat} (hp : s.busPlan = some n) (hn : n < (initWords s.cfg).length) :
    (replayInit s).trace = s.trace ++ (initWords s.cfg).take n ∧ (replayInit s).unusable = true
      ∧ (replayInit s).initDue = false := by
  obtain ⟨c, hrun, -⟩ := runMicros_faulted countOnly_id (busOnly_initseq s.cfg) { s with initDue := false } hp
    (by rw [length_initseq]; exact hn)
  obtain ⟨t, hrun, htrace, hdue⟩ : ∃ t, (runBare (initseqSteps s.cfg) { s with initDue := false }).final = takeBusFault t
      ∧ t.trace = s.trace ++ (initWords s.cfg).take n ∧ t.initDue = false :=
    ⟨_, by rw [runBare, hrun, Run.final], by rw [← busWords_initseq], by simp⟩
  obtain ⟨-, hun, -, -, htr, -, -, -, -, -, -, -, -, hdue', -⟩ := takeBusFault_always t
  unfold replayInit
  rw [hrun]
  exact ⟨htr.trans htrace, hun, hdue'.trans hdue⟩

/-- Settles O45: the replay faults at transaction `n`, on the state of the ATTACH column of R39. -/
theorem initseqFaultStops : Obligations.InitseqFaultStops := by
  intro w h b n s hd hw hw' hh hh' hp hn
  have ha : attachAccepts w h (w * h * 2) = true := (attachAccepts_iff w h _).2 ⟨hw, hw', hh, hh', rfl⟩
  obtain ⟨htrace, hun, hdue⟩ := replayInit_faulted (s := attachReset w h b s) hp hn
  have hdev := deviceOf_replayInit (attachReset w h b s)
  simp only [deviceOf, DeviceView.mk.injEq] at hdev
  obtain ⟨-, hattached, hwidth, hheight, hbase, -, -⟩ := hdev
  exact ⟨_, exec_attach_of_accepts hd ha, htrace, hattached, hun, gate_replayInit rfl, hdue, hwidth, hheight, hbase⟩

/-! ### `DETACH` -/

theorem detachEnabled_iff {s : State} (hd : s.dev = .attached) :
    detachEnabled s = true ↔ s.gate = .free ∧ s.handler = .idle := by
  simp [detachEnabled, hd]

theorem failSlot_reset_eq_deviceLost (fgs : List Fg) :
    (fgs.map fun f => (⟨failSlot f.slot, 0⟩ : Fg)) = (deviceLost fgs).map fun f => ⟨f.slot, 0⟩ := by
  rw [← failSlot_eq_deviceLost, List.map_map]
  rfl

theorem exec_detach_of_attached {s : State} (hd : s.dev = .attached) :
    exec .detach s = .next (if detachEnabled s = true then detachNow s else { s with detachPending := true }) := by
  simp only [exec, execDetach, hd, reduceCtorEq, if_false]
  split <;> rfl

/-- Settles O46: it is enabled, so it takes place at once. -/
theorem detachFrees : Obligations.DetachFrees := by
  intro s hd hg hh
  rw [exec_detach_of_attached hd, if_pos ((detachEnabled_iff hd).2 ⟨hg, hh⟩), detachNow, failSlot_reset_eq_deviceLost,
    ← hg, ← hh]
  rfl

/-- Settles O47: the waiting caller's step is the same question asked again. -/
theorem detachWaits : Obligations.DetachWaits := by
  intro s hd
  have hhost : hostStep { s with detachPending := true } =
      if detachEnabled s = true then detachNow s else { s with detachPending := true } := rfl
  rw [exec_detach_of_attached hd, hhost]
  refine ⟨fun hbusy => ?_, fun _ _ => rfl⟩
  have hoff : ¬ detachEnabled s = true := fun h => by
    obtain ⟨hg, hh⟩ := (detachEnabled_iff hd).1 h
    exact hbusy.elim (fun hne => hne hg) fun hne => hne hh
  rw [if_neg hoff]
  exact ⟨rfl, rfl⟩

/-! ### The external writers -/

/-- Settles O49: a write to a sparse map is read back at its key alone. -/
theorem externalWritesChangeOneByte : Obligations.ExternalWritesChangeOneByte := by
  refine ⟨fun s i b hd hi => ⟨sbWrite s i b, ?_, rfl, fun j => sparseRead_write i j b s.sb⟩, fun s a b =>
    ⟨_, rfl, rfl, fun j => ?_⟩⟩
  · rw [moveStep, if_pos ⟨hd, hi⟩]
  · simp only [hostByte, sparseRead_write]
    split <;> rfl

/-! ### Nothing left to do -/

theorem firstWaiting_eq_none {fgs : List Fg} (h : ∀ f ∈ fgs, ∀ r t, f.slot ≠ .waiting r t) (k : Nat) :
    firstWaiting k fgs = none := by
  induction fgs generalizing k with
  | nil => rfl
  | cons f fgs ih =>
    unfold firstWaiting
    split
    · exact absurd ‹_› (h f (by simp) _ _)
    · exact ih (fun f hf => h f (by simp [hf])) _

/-- Settles O5: after power-on, and where a run is over, the schedule finds nobody who moves (R246). -/
theorem resetAndQuiescentStatesStay : Obligations.ResetAndQuiescentStatesStay := by
  refine ⟨rfl, rfl, rfl, rfl, rfl, rfl, fun s hq => ?_⟩
  obtain ⟨-, hg, -, hh, hp, hdet, hin, hslots⟩ := hq
  have hnone : firstWaiting 0 s.fgs = none := by
    refine firstWaiting_eq_none (fun f hf r t he => ?_) 0
    obtain ⟨k, hk⟩ := List.mem_iff_getElem?.1 hf
    rcases hslots k f.slot (by simp [slotOf, hk]) with h | ⟨res, h⟩
    · cases he.symm.trans h
    · cases he.symm.trans h
  simp [step, fetch, hin, autoStep, autoMove, hg, hh, hp, hdet, hnone]

/-- After power-on every slot is empty (log entry 7). -/
theorem slotOf_reset {k : Nat} {v : Slot} (h : slotOf State.reset k = some v) : v = .empty := by
  simp only [slotOf, State.reset, Option.map_eq_some_iff] at h
  obtain ⟨f, hf, rfl⟩ := h
  rw [List.eq_of_mem_replicate (List.mem_of_getElem? hf)]

theorem gateInv_reset : GateInv State.reset := by
  refine ⟨by decide, by decide, fun k => ⟨?_, fun e => by cases e⟩, by decide, fun _ => ⟨rfl, rfl⟩, rfl, ?_⟩
  · rintro ⟨r, hr⟩
    cases slotOf_reset hr
  · rintro k r (hr | ⟨t, hr⟩) <;> cases slotOf_reset hr

/-- Settles O50: nobody holds the gate after power-on, and no window is trusted. -/
theorem invariantsHoldAtReset : Obligations.InvariantsHoldAtReset :=
  ⟨gateInv_reset, ⟨rfl, rfl, rfl, rfl⟩,
    (windowInv_iff _).2 ⟨fullOrUntrusted_of_untrusted rfl, fun hd => by cases hd⟩,
    (windowBounds_iff _).2 ⟨onScreen_of_untrusted rfl, fun hd => by cases hd⟩, burstInv_of_free rfl⟩

end Sys2Proof.Machine
end

section
/-! PROOFS. The operations of the holder from their start to their end (42_drawingprimitives.md, 43_mirrorpipeline.md),
delivered or with a transaction that faults, and one micro-step at a time (10_state.md R26). -/

namespace Sys2Proof.Machine

/-! ### One micro-step at a time -/

/-- An agent whose step is the holder's, and who has none once a BusFault has ended the operation, leaves after all its steps
what the operation run to its end leaves. -/
theorem iterate_eq_complete {f : State → State} {P : State → Prop} (hstep : ∀ s, P s → f s = holderStep s)
    (hkeep : ∀ s t, P s → Untouched s t → P t) (hfault : ∀ s, P s → f (takeBusFault s) = takeBusFault s)
    (ms : List Micro) {s : State} (h : P s) (hr : holderRest s = some ms) :
    f^[ms.length + 1] s = complete (runOperation ms s) := by
  induction ms generalizing s with
  | nil => exact (hstep s h).trans (holderStep_of_done hr)
  | cons m ns ih =>
    rw [List.length_cons, Function.iterate_succ_apply, hstep s h, holderStep_of_rest hr]
    rcases microStep_cases m s with ⟨t, ht, hu⟩ | ⟨t, ht, hu⟩
    · have hrun : runOperation (m :: ns) s = runOperation ns (bumpSeq t) := by simp only [runOperation, runMicros, ht]
      have hone : (runOperation [m] s).final = bumpSeq t := by simp only [runOperation, runMicros, ht]; rfl
      rw [hone, hrun, ih (hkeep s _ h (hu.trans (untouched_bumpSeq t))) (holderRest_bumpSeq hr ht hu)]
    · have hrun : ∀ ns, runOperation (m :: ns) s = .error (takeBusFault t) := fun ns => by
        simp only [runOperation, runMicros, ht]
      rw [hrun, hrun]
      exact Function.iterate_fixed (hfault t (hkeep s t h hu)) _

/-- A foreground holder's steps (R184 step 6). -/
theorem iterate_fgStep {k : Nat} {r : Request} {ms : List Micro} {s : State} (hg : s.gate = .heldFG k)
    (hs : slotOf s k = some (.running r)) (hr : holderRest s = some ms) :
    (fgStep k)^[ms.length + 1] s = complete (runOperation ms s) := by
  refine iterate_eq_complete (P := fun s => s.gate = .heldFG k ∧ slotOf s k = some (.running r)) (fun s h => ?_)
    (fun s t h u => ⟨u.gate.trans h.1, (u.slots k).trans h.2⟩) (fun s h => ?_) ms ⟨hg, hs⟩ hr
  · simp only [fgStep, h.2, h.1, if_true]
  · have hdone : slotOf (takeBusFault s) k = some (.done .busFault) := by
      rw [slotOf_takeBusFault, if_pos h.1, h.2]
      rfl
    simp only [fgStep, hdone]

/-- The steps of `IRQA` in its cycle (R166). -/
theorem iterate_irqaStep {ms : List Micro} {s : State} (hd : s.dev = .attached) (hg : s.gate = .heldIRQ)
    (hh : s.handler = .cycle) (hp : s.irqPending = false) (hr : holderRest s = some ms) :
    irqaStep^[ms.length + 1] s = complete (runOperation ms s) := by
  refine iterate_eq_complete
    (P := fun s => s.dev = .attached ∧ s.gate = .heldIRQ ∧ s.handler = .cycle ∧ s.irqPending = false)
    (fun s ⟨hd, hg, hh, _⟩ => irqaStep_of_cycle hd hh hg)
    (fun s t ⟨hd, hg, hh, hp⟩ u => ⟨u.dev.trans hd, u.gate.trans hg, u.handler.trans hh, u.irqPending.trans hp⟩)
    (fun s ⟨hd, hg, _, hp⟩ => ?_) ms ⟨hd, hg, hh, hp⟩ hr
  rw [takeBusFault_irq_state hg]
  simp [irqaStep, hd, hp]

/-- Settles O56: both agents' steps are the holder's. -/
theorem microStepsMakeTheOperation : Obligations.MicroStepsMakeTheOperation := by
  refine ⟨fun k r n s hg hf => ?_, fun s hd hg hm hh hp => ?_⟩
  · have hs := slotOf_of_getElem? hf
    have hr : holderRest s = some (requestRest s k r) := by simp only [holderRest, hg, hs]
    rw [iterate_fgStep hg hs hr, holderRun, hr]
  · have hr := holderRest_of_mirroring hg hm
    rw [iterate_irqaStep hd hg hh hp hr, holderRun, hr]

/-! ### A drawing operation -/

/-- A modification is what it does at its place. -/
theorem modify_congr_of_getElem? {α : Type} {l : List α} {k : Nat} {a : α} (ha : l[k]? = some a) {f g : α → α}
    (h : f a = g a) : l.modify k f = l.modify k g := by
  refine List.ext_getElem? fun j => ?_
  by_cases hj : k = j
  · subst hj
    simp [ha, h]
  · simp [hj]

theorem holderRest_request_start {s : State} {k : Nat} {r : Request} (hg : s.gate = .heldFG k)
    (hf : s.fgs[k]? = some ⟨.running r, 0⟩) : holderRest s = some (requestSteps s.cfg s.width s.height r) := by
  rw [holderRest_of_running hg hf, List.drop_zero]

/-- A valid drawing operation, every transaction delivered, in closed form (R184 steps 6 and 7). -/
theorem exec_drawing_delivered {r : Request} {k : Nat} {s : State} (hd : s.dev = .attached) (hg : s.gate = .heldFG k)
    (hf : s.fgs[k]? = some ⟨.running r, 0⟩) (hv : validRequest s.width s.height r = true)
    (hb : busDelivers s (requestWords s.cfg s.width s.height r).length) :
    exec (drawingOf r) s = .next { s with
      busPlan := busPlanAfter s (requestWords s.cfg s.width s.height r).length
      trace := s.trace ++ requestWords s.cfg s.width s.height r
      ctl := stepsCtl s.cfg (requestSteps s.cfg s.width s.height r) s.ctl
      chip := chipRun s.cfg s.engineActive (requestWords s.cfg s.width s.height r) s.chip
      gate := .free
      fgs := s.fgs.modify k fun _ => ⟨.done .ok, (requestWords s.cfg s.width s.height r).length⟩ } := by
  rw [← length_request _ _ _ r hv] at hb ⊢
  rw [exec_drawingOf, drawing_of_valid hd hg (slotOf_of_getElem? hf) hv, holderRun, holderRest_request_start hg hf]
  simp only [runOperation, runMicros_delivered countOnly_bumpSeq (busOnly_request _ _ _ r) s hb,
    busWords_request _ _ _ r hv, bumpSeq_iterate_fg _ k s hg, complete]
  rw [release_fg (k := k) (by exact hg), endRequest, setSlot]
  simp only [List.modify_modify_eq]
  rw [modify_congr_of_getElem? hf (g := fun _ => ⟨.done .ok, (requestSteps s.cfg s.width s.height r).length⟩) (by simp)]

/-- Settles O28: the closed form, with the registers that the window, the cursor, the burst and the full window leave. -/
theorem fillrectCompletes : Obligations.FillrectCompletes := by
  intro x0 x1 y0 y1 c k s hd hg hf hx hx1 hy hy1 hp hb
  have hv : validRequest s.width s.height (.fillrect x0 x1 y0 y1 c 0) = true :=
    (validRequest_fillrect_iff ..).2 ⟨hx, hx1, hy, hy1, rfl⟩
  have hlen : (requestWords s.cfg s.width s.height (.fillrect x0 x1 y0 y1 c 0)).length = 41 + fillPixels x0 x1 y0 y1 :=
    length_fillWords ..
  have hrun := exec_drawing_delivered hd hg hf hv (hlen ▸ hb)
  rw [hlen] at hrun
  refine hrun.trans ?_
  have hctl : stepsCtl s.cfg (requestSteps s.cfg s.width s.height (.fillrect x0 x1 y0 y1 c 0)) s.ctl = { s.ctl with
      winX0 := 0, winX1 := BitVec.ofNat 16 (s.width - 1), winY0 := 0, winY1 := BitVec.ofNat 16 (s.height - 1)
      curX := x0, curY := y0, winValid := true, curValid := false, writeArmed := false
      sel := s.cfg.regWinY1H, selValid := true
      shd := (highPart (BitVec.ofNat 16 (s.height - 1))).value, shdValid := true } := by
    simp only [requestSteps, fillrectSteps, setfullSteps, stepsCtl_append, stepsCtl_setwin hp, stepsCtl_setcur hp,
      stepsCtl_beginwr, stepsCtl_burst]
    rfl
  rw [hctl]
  rfl

/-- The last pixel of a payload of at least one (R99). -/
theorem getLast?_pixels {bytes : List Byte} {n : Nat} (hl : bytes.length = n * 2) (hn : 1 ≤ n) :
    (pixels bytes).getLast? = some (blitPixel bytes (n - 1)) := by
  rw [pixels_eq bytes hl, List.getLast?_map, List.getLast?_range, if_neg (by omega)]
  rfl

/-- The registers a blit leaves before the window is restored (R142). -/
theorem stepsCtl_blitBody {p : Params} (hp : paramsWf p = true) (x0 x1 y0 y1 : Half) {bytes : List Byte} {n : Nat}
    (hl : bytes.length = n * 2) (hn : 1 ≤ n) (c : Ctl) :
    stepsCtl p (setwinSteps p x0 x1 y0 y1 ++ setcurSteps x0 y0 ++ beginwrSteps p ++ burst (pixels bytes)) c = { c with
      winX0 := x0, winX1 := x1, winY0 := y0, winY1 := y1
      curX := x0, curY := y0, winValid := true, curValid := false, writeArmed := true
      sel := p.regMrw, selValid := true, shd := blitPixel bytes (n - 1), shdValid := true } := by
  have hne : (pixels bytes).isEmpty = false := by
    rw [List.isEmpty_eq_false_iff, ← List.length_pos_iff, length_pixels bytes hl]
    exact hn
  simp only [stepsCtl_append, stepsCtl_setwin hp, stepsCtl_setcur hp, stepsCtl_beginwr, stepsCtl_burst,
    getLast?_pixels hl hn, hne]
  rfl

/-- Settles O29: the closed form, with and without the full window at its end. -/
theorem blitCompletes : Obligations.BlitCompletes := by
  intro x0 y0 w h bytes k s hd hg hf hl hw hh hx hy hp hb
  have hv : validRequest s.width s.height (.blit x0 y0 w h bytes) = true :=
    (validRequest_blit_iff ..).2 ⟨hl, hw, hh, hx, hy⟩
  refine (exec_drawing_delivered hd hg hf hv hb).trans ?_
  have hbody := stepsCtl_blitBody hp x0 (BitVec.ofNat 16 (spanEnd x0 w)) y0 (BitVec.ofNat 16 (spanEnd y0 h)) hl
    (Nat.mul_pos hw hh) s.ctl
  rw [requestSteps, blitSteps, stepsCtl_append, hbody]
  cases hrest : s.cfg.blitRestoreWindow with
  | false => simp only [Bool.false_eq_true, if_false]; rfl
  | true => simp only [if_true, setfullSteps, stepsCtl_setwin hp]; rfl

/-- `SETCUR` delivered makes all but the window its own (R130). -/
theorem stepsCtl_setcur_of_window {p : Params} (hp : paramsWf p = true) (x y : Half) {c d : Ctl}
    (h : windowOf d = windowOf c) : stepsCtl p (setcurSteps x y) d = stepsCtl p (setcurSteps x y) c := by
  simp only [windowOf, WindowView.mk.injEq] at h
  obtain ⟨h0, h1, h2, h3, h4⟩ := h
  rw [stepsCtl_setcur hp, stepsCtl_setcur hp, h0, h1, h2, h3, h4]

/-- Settles O30: the closed form; the colour's registers are covered by the cursor's. -/
theorem textrunCompletes : Obligations.TextrunCompletes := by
  intro x y c bytes k s hd hg hf hx hy hp hb
  have hv : validRequest s.width s.height (.textrun x y c bytes) = true := (validRequest_textrun_iff ..).2 ⟨hx, hy⟩
  refine (exec_drawing_delivered hd hg hf hv hb).trans ?_
  have hcolor : windowOf (stepsCtl s.cfg (colorSteps s.cfg c) s.ctl) = windowOf s.ctl := by
    rw [windowOf_stepsCtl, colorSteps, stepsWindow_of_leaves (leavesWindow_flatMap_regw _ _ _)]
  have hwords : textWords bytes = bytes.map fun b => BitVec.ofNat 16 b.toNat := by
    simp only [textWords, setWidth_byte]
  have hctl : stepsCtl s.cfg (requestSteps s.cfg s.width s.height (.textrun x y c bytes)) s.ctl = { s.ctl with
      curX := x, curY := y, curValid := bytes.isEmpty, writeArmed := true
      sel := s.cfg.regMrw, selValid := true
      shd := ((bytes.map fun b => BitVec.ofNat 16 b.toNat).getLast?).getD (highPart y).value, shdValid := true } := by
    simp only [requestSteps, textrunSteps, stepsCtl_append, stepsCtl_setcur_of_window hp x y hcolor, stepsCtl_setcur hp,
      stepsCtl_beginwr, stepsCtl_burst, hwords, List.isEmpty_map, Bool.true_and, Bool.true_or]
  rw [hctl]
  rfl

/-- What is left of the foreground agents when transaction `n` of agent `k`'s request faults (R213, R221). -/
theorem deviceLost_modify {fgs : List Fg} {k n : Nat} {r : Request} (hf : fgs[k]? = some ⟨.running r, 0⟩) :
    (deviceLost (fgs.modify k fun f => { f with seqPc := f.seqPc + n })).modify k (withSlot (.done .busFault)) =
      (deviceLost fgs).modify k fun _ => ⟨.done .busFault, n⟩ := by
  refine List.ext_getElem? fun j => ?_
  by_cases hj : k = j
  · subst hj
    simp [deviceLost, hf, withSlot]
  · simp [deviceLost, hj]

/-- Settles O18: the micro-steps before the fault in closed form, then the BusFault. -/
theorem foregroundFaultIsPrecise : Obligations.ForegroundFaultIsPrecise := by
  intro r n k s hd hg hf hv hp hn
  rw [← length_request _ _ _ r hv] at hn
  obtain ⟨c, hrun, -⟩ := runMicros_faulted countOnly_bumpSeq (busOnly_request s.cfg s.width s.height r) s hp hn
  rw [bumpSeq_iterate_fg n k s hg, takeBusFault_fg_state (k := k) (by exact hg), busWords_request _ _ _ r hv] at hrun
  simp only [deviceLost_modify hf] at hrun
  have hexec : exec (drawingOf r) s = .next (complete (runOperation (requestSteps s.cfg s.width s.height r) s)) := by
    rw [exec_drawingOf, drawing_of_valid hd hg (slotOf_of_getElem? hf) hv, holderRun, holderRest_request_start hg hf]
  rw [runOperation, hrun] at hexec
  exact ⟨_, hexec, rfl, rfl, rfl, rfl, rfl, rfl, rfl, rfl, rfl, rfl, rfl, rfl, rfl⟩

/-! ### The mirror cycle -/

/-- The state the frame copy leaves (R165). -/
def copied (s : State) : State :=
  { s with
    sb := (List.range (frameSize s)).foldl (fun m i => sparseWrite i (fbRead s i) m) s.sb
    irqSeqPc := s.irqSeqPc + frameSize s }

theorem runOperation_copyframe {s : State} (hg : s.gate = .heldIRQ) :
    runOperation (copyframeSteps s.width s.height) s = .ok (copied s) := by
  rw [runOperation, copyframeSteps, runMicros_copy _ s hg, List.length_range]
  rfl

theorem sbRead_copied (s : State) (i : Nat) :
    sparseRead i (copied s).sb = if i < s.width * s.height * 2 then some (fbRead s i) else sbRead s i := by
  simp only [copied, sparseRead_foldl_write, List.mem_range]
  rfl

theorem inMirrorCycle_of {s : State} (hd : s.dev = .attached) (hg : s.gate = .heldIRQ) (hm : s.mirror = .mirroring) :
    inMirrorCycle s = true := by simp [inMirrorCycle, hd, hg, hm]

/-- Settles O38: the copy as a whole in closed form, and its next byte as one step of `IRQA`. -/
theorem copyframeCopies : Obligations.CopyframeCopies := by
  refine ⟨fun s hd hg hm hi => ⟨(copied s).sb, ?_, sbRead_copied s⟩, fun s hd hg hm hh hi =>
    ⟨sparseWrite s.irqSeqPc (fbRead s s.irqSeqPc) s.sb, ?_, fun j => ?_⟩⟩
  · have hzero : s.irqSeqPc + frameSize s = s.width * s.height * 2 := by rw [hi, Nat.zero_add]; rfl
    simp only [exec, execCopyframe, inMirrorCycle_of hd hg hm, hi, beq_self_eq_true, Bool.and_self, if_true,
      runOperation_copyframe hg, Run.final, copied, ← hzero]
  · have hrest : holderRest s =
        some (.copyByte s.irqSeqPc :: (mirrorSteps s.cfg s.width s.height).drop (s.irqSeqPc + 1)) := by
      have hlen : s.irqSeqPc < (mirrorSteps s.cfg s.width s.height).length := by rw [length_mirror]; omega
      rw [holderRest_of_mirroring hg hm, mirrorRest, List.drop_eq_getElem_cons hlen]
      congr 2
      simp [mirrorSteps_eq, List.getElem_append_left, copyframeSteps, hi]
    rw [irqaStep_of_cycle hd hh hg, holderStep_of_rest hrest, runOperation]
    exact congrArg Run.final (runMicros_copy [s.irqSeqPc] s hg)
  · rw [sparseRead_write]
    by_cases hj : j = s.irqSeqPc
    · rw [if_pos hj, if_pos hj, hj]
    · rw [if_neg hj, if_neg hj, sbRead]

/-- The bus transactions of a mirror cycle, behind the copy and before the engine (R166). -/
def mirrorBus (p : Params) (w h : Nat) : List Micro := setfullSteps p w h ++ setcurSteps 0 0 ++ beginwrSteps p

theorem mirrorTail_eq (p : Params) (w h : Nat) : mirrorTail p w h = mirrorBus p w h ++ [.engineStart] := rfl

theorem busOnly_mirrorBus (p : Params) (w h : Nat) : BusOnly (mirrorBus p w h) :=
  ((busOnly_setwin _ _ _ _ _).append (busOnly_setcur 0 0)).append (busOnly_beginwr p)

theorem busWords_mirrorBus (p : Params) (w h : Nat) : busWords (mirrorBus p w h) = mirrorWords p w h := by
  simp only [mirrorBus, busWords_append, busWords_setfull, busWords_setcur, busWords_beginwr, mirrorWords]

theorem length_mirrorBus (p : Params) (w h : Nat) : (mirrorBus p w h).length = 25 := rfl

/-- `MIRROR` from the start of a cycle is the copy, the transactions, the engine's start and the completion (R166, R168). -/
theorem exec_mirror_start {s : State} (hd : s.dev = .attached) (hg : s.gate = .heldIRQ) (hm : s.mirror = .mirroring)
    (hi : s.irqSeqPc = 0) :
    exec .mirror s = .next (complete (runOperation (mirrorTail s.cfg s.width s.height) (copied s))) := by
  have hcopy : runMicros bumpSeq (copyframeSteps s.width s.height) s = .ok (copied s) := runOperation_copyframe hg
  simp only [exec, execMirror, inMirrorCycle_of hd hg hm, if_true, holderRun, holderRest_at_start hg hm hi, runOperation,
    runMicros_append, hcopy]

/-- The registers a mirror cycle leaves (R166). -/
theorem stepsCtl_mirrorBus {p : Params} (hp : paramsWf p = true) (w h : Nat) (c : Ctl) :
    stepsCtl p (mirrorBus p w h) c = { c with
      winX0 := 0, winX1 := BitVec.ofNat 16 (w - 1), winY0 := 0, winY1 := BitVec.ofNat 16 (h - 1)
      curX := 0, curY := 0, winValid := true, curValid := true, writeArmed := true
      sel := p.regMrw, selValid := true, shd := 0, shdValid := true } := by
  simp only [mirrorBus, setfullSteps, stepsCtl_append, stepsCtl_setwin hp, stepsCtl_setcur hp, stepsCtl_beginwr]
  rfl

/-- The last micro-step of a cycle and its completion (R166, R168). -/
theorem complete_engineStart {t : State} (hg : t.gate = .heldIRQ) :
    complete (runMicros bumpSeq [.engineStart] t) = { t with
      events := t.events ++ [.engineStart]
      engineActive := true
      chip := chipDisturb t.chip
      irqSeqPc := t.irqSeqPc + 1
      mirrorCount := t.mirrorCount + 1
      gate := .free
      mirror := .idle
      handler := .idle } := by
  have hbump : bumpSeq (engineStart t) = { engineStart t with irqSeqPc := t.irqSeqPc + 1 } := by
    simp only [bumpSeq, engineStart_gate, hg, engineStart_irqSeqPc]
  simp only [runMicros, microStep, hbump, complete]
  rw [release_irq (by exact hg)]
  rfl

/-- The cycle behind its copy, every transaction delivered, in closed form. -/
theorem mirrorTail_delivered {t : State} (hg : t.gate = .heldIRQ) (hp : paramsWf t.cfg = true) (hb : busDelivers t 25) :
    complete (runOperation (mirrorTail t.cfg t.width t.height) t) = { t with
      busPlan := busPlanAfter t 25
      trace := t.trace ++ mirrorWords t.cfg t.width t.height
      events := t.events ++ [.engineStart]
      ctl := { t.ctl with
        winX0 := 0, winX1 := BitVec.ofNat 16 (t.width - 1), winY0 := 0, winY1 := BitVec.ofNat 16 (t.height - 1)
        curX := 0, curY := 0, winValid := true, curValid := true, writeArmed := true
        sel := t.cfg.regMrw, selValid := true, shd := 0, shdValid := true }
      chip := chipDisturb (chipRun t.cfg t.engineActive (mirrorWords t.cfg t.width t.height) t.chip)
      engineActive := true
      irqSeqPc := t.irqSeqPc + 26
      mirrorCount := t.mirrorCount + 1
      gate := .free
      mirror := .idle
      handler := .idle } := by
  have hbus := runMicros_delivered countOnly_bumpSeq (busOnly_mirrorBus t.cfg t.width t.height) t hb
  rw [bumpSeq_iterate_irq _ t hg, length_mirrorBus, busWords_mirrorBus, stepsCtl_mirrorBus hp] at hbus
  rw [mirrorTail_eq, runOperation, runMicros_append, hbus]
  exact complete_engineStart hg

/-- The cycle behind its copy, transaction number `n` answered with `Fault`, in closed form. -/
theorem mirrorTail_faulted {t : State} {n : Nat} (hg : t.gate = .heldIRQ) (hp : t.busPlan = some n) (hn : n < 25) :
    ∃ c : Ctl, complete (runOperation (mirrorTail t.cfg t.width t.height) t) = { t with
      busPlan := none
      trace := t.trace ++ (mirrorWords t.cfg t.width t.height).take n
      ctl := { c with winValid := false, curValid := false, writeArmed := false }
      chip := unknownChip
      unusable := true
      faultCount := t.faultCount + 1
      irqSeqPc := t.irqSeqPc + n
      gate := .free
      mirror := .idle
      handler := .idle
      fgs := deviceLost t.fgs } := by
  obtain ⟨c, hbus, -⟩ := runMicros_faulted countOnly_bumpSeq (busOnly_mirrorBus t.cfg t.width t.height) t hp (n := n) hn
  rw [bumpSeq_iterate_irq n t hg, takeBusFault_irq_state (by exact hg), busWords_mirrorBus] at hbus
  refine ⟨c, ?_⟩
  rw [mirrorTail_eq, runOperation, runMicros_append, hbus]
  rfl

theorem irqSeqPc_copied {s : State} (hi : s.irqSeqPc = 0) : (copied s).irqSeqPc = s.width * s.height * 2 := by
  rw [copied, hi, Nat.zero_add]
  rfl

/-- Settles O39: the copy, then the rest of the cycle in closed form. -/
theorem mirrorCompletes : Obligations.MirrorCompletes := by
  intro s hd hg hm hi hp hb
  refine ⟨(copied s).sb, ?_, sbRead_copied s⟩
  rw [exec_mirror_start hd hg hm hi, ← irqSeqPc_copied hi]
  exact congrArg _ (mirrorTail_delivered (t := copied s) hg hp hb)

/-- Settles O19: the copy, then the rest of the cycle up to its fault in closed form. -/
theorem mirrorFaultIsPrecise : Obligations.MirrorFaultIsPrecise := by
  intro n s hd hg hm hi hp hn
  obtain ⟨c, hc⟩ := mirrorTail_faulted (t := copied s) hg hp hn
  refine ⟨_, (exec_mirror_start hd hg hm hi).trans (congrArg _ hc), ?_⟩
  exact ⟨rfl, rfl, rfl, rfl, rfl, rfl, rfl, rfl, rfl, rfl, congrArg (· + n) (irqSeqPc_copied hi), rfl, rfl, rfl, rfl,
    sbRead_copied s⟩

end Sys2Proof.Machine
end

section
/-! PROOFS. What a fill and a blit show on the reference chip (42_drawingprimitives.md R140, R142, 20_memory.md R70). -/

namespace Sys2Proof.Machine

/-- A cell of column `c` stands before the `w * h`-th of a window of width `w` exactly when its row is below `h`. -/
theorem row_mul_add_lt_iff {w h r c : Nat} (hc : c < w) : r * w + c < w * h ↔ r < h := by
  rw [Nat.mul_comm w h]
  constructor
  · intro hlt
    exact Nat.lt_of_mul_lt_mul_right (Nat.lt_of_le_of_lt (Nat.le_add_right _ c) hlt)
  · intro hr
    calc r * w + c < r * w + w := Nat.add_lt_add_left hc _
      _ = (r + 1) * w := (Nat.succ_mul r w).symm
      _ ≤ h * w := Nat.mul_le_mul_right w hr

/-- A window set, the cursor at its first cell, and a burst of one pass over it: pixel `i` lands in row `i / w`, column
`i % w`, and no other cell changes (R70). -/
theorem chipCell_rectangle {p : Params} (hp : paramsWf p = true) {x0 x1 y0 y1 : Half} {w h : Nat} (hx : x0.toNat ≤ x1.toNat)
    (hy : y0.toNat ≤ y1.toNat) (hw : x1.toNat + 1 = x0.toNat + w) (hh : y1.toNat + 1 = y0.toNat + h) {vs : List Half}
    (hn : vs.length = w * h) (c : Chip) (x y : Half) :
    chipCell (chipRun p false (windowWords p x0 x1 y0 y1 ++ cursorWords x0 y0 ++ [cmdWord p.regMrw] ++ vs.map datWord) c)
        x.toNat y.toNat =
      if x0.toNat ≤ x.toNat ∧ x.toNat ≤ x1.toNat ∧ y0.toNat ≤ y.toNat ∧ y.toNat ≤ y1.toNat
      then vs[(y.toNat - y0.toNat) * w + (x.toNat - x0.toNat)]? else chipCell c x.toNat y.toNat := by
  obtain ⟨d, hd, -, hwin, hptr, htraffic, hvram⟩ := chipRun_window_cursor hp false x0 x1 y0 y1 x0 y0 c
  rw [if_pos ⟨rfl, Nat.le_refl _, hx, Nat.le_refl _, hy⟩] at hvram
  obtain ⟨m, hm, hread⟩ := chipRun_burst p ⟨x0.toNat, x1.toNat, y0.toNat, y1.toNat⟩ hw hh (by omega) x1.isLt vs hn.le
    { d with csel := some p.regMrw } rfl htraffic hwin hptr
  have hcell : (x0.toNat ≤ x.toNat ∧ x.toNat ≤ x1.toNat ∧ y0.toNat ≤ y.toNat
        ∧ (y.toNat - y0.toNat) * w + (x.toNat - x0.toNat) < vs.length) ↔
      (x0.toNat ≤ x.toNat ∧ x.toNat ≤ x1.toNat ∧ y0.toNat ≤ y.toNat ∧ y.toNat ≤ y1.toNat) := by
    refine and_congr_right fun hx0 => and_congr_right fun hx1 => and_congr_right fun hy0 => ?_
    rw [hn, row_mul_add_lt_iff (by omega)]
    omega
  simp only [chipRun_append, hd, chipRun_beginwr, hm, chipCell]
  rw [hread _ _ x.isLt]
  simp only [hcell, hvram]

/-- Setting a window leaves the display as it was. -/
theorem chipCell_window {p : Params} (hp : paramsWf p = true) (x0 x1 y0 y1 : Half) (c : Chip) (x y : Nat) :
    chipCell (chipRun p false (windowWords p x0 x1 y0 y1) c) x y = chipCell c x y := by
  obtain ⟨g, hg⟩ := chipRun_window hp false x0 x1 y0 y1 c
  rw [hg]
  rfl

/-- Where a drawing operation answers a next state, the device is attached. -/
theorem attached_of_drawing {r : Request} {s t : State} (h : drawing r s = .next t) : s.dev = .attached := by
  refine attached_of_ne fun hd => ?_
  simp [drawing, hd] at h

/-- The chip a valid drawing operation leaves, delivered. -/
theorem chip_of_drawing {r : Request} {k : Nat} {s t : State} (hg : s.gate = .heldFG k)
    (hf : s.fgs[k]? = some ⟨.running r, 0⟩) (hv : validRequest s.width s.height r = true)
    (hb : busDelivers s (requestWords s.cfg s.width s.height r).length) (h : exec (drawingOf r) s = .next t) :
    t.chip = chipRun s.cfg s.engineActive (requestWords s.cfg s.width s.height r) s.chip := by
  have hd := attached_of_drawing ((exec_drawingOf r s).symm.trans h)
  cases (exec_drawing_delivered hd hg hf hv hb).symm.trans h
  rfl

/-- Settles O32: the burst of one colour over the rectangle; the full window set after it shows nothing. -/
theorem fillrectPaintsRectangle : Obligations.FillrectPaintsRectangle := by
  intro x0 x1 y0 y1 c k s t hg hf hx hx1 hy hy1 hp he hb hexec x y
  have hv : validRequest s.width s.height (.fillrect x0 x1 y0 y1 c 0) = true :=
    (validRequest_fillrect_iff ..).2 ⟨hx, hx1, hy, hy1, rfl⟩
  have hchip := chip_of_drawing hg hf hv (by rw [requestWords, length_fillWords]; exact hb) hexec
  have hburst : List.replicate (fillPixels x0 x1 y0 y1) (datWord c) =
      (List.replicate (fillPixels x0 x1 y0 y1) c).map datWord := by simp
  have hlen : (List.replicate (fillPixels x0 x1 y0 y1) c).length =
      (x1.toNat - x0.toNat + 1) * (y1.toNat - y0.toNat + 1) := List.length_replicate
  rw [hchip, he, requestWords, fillWords, chipRun_append, fullWords, chipCell_window hp, hburst,
    chipCell_rectangle hp hx hy (by omega) (by omega) hlen]
  refine if_ctx_congr Iff.rfl (fun hin => ?_) fun _ => rfl
  rw [List.getElem?_replicate, if_pos]
  rw [fillPixels, row_mul_add_lt_iff (by omega)]
  omega

/-- The part of a blit behind its burst leaves the display as it was. -/
theorem chipCell_restore {p : Params} (hp : paramsWf p = true) (w h : Nat) (c : Chip) (x y : Nat) :
    chipCell (chipRun p false (if p.blitRestoreWindow then fullWords p w h else []) c) x y = chipCell c x y := by
  split
  · exact chipCell_window hp _ _ _ _ c x y
  · rfl

/-- Settles O33: the burst of the payload's pixels over the rectangle. -/
theorem blitPaintsRectangle : Obligations.BlitPaintsRectangle := by
  intro x0 y0 w h bytes k s t hg hf hl hw hh hx hy hrange hp he hb hexec x y
  have hv : validRequest s.width s.height (.blit x0 y0 w h bytes) = true :=
    (validRequest_blit_iff ..).2 ⟨hl, hw, hh, hx, hy⟩
  obtain ⟨-, hwidth, -, hheight⟩ := hrange
  have hx1 := spanEnd_toNat hx hwidth
  have hy1 := spanEnd_toNat hy hheight
  rw [spanEnd] at hx1 hy1
  have hburst : (List.range (w.toNat * h.toNat)).map (fun i => datWord (blitPixel bytes i)) =
      ((List.range (w.toNat * h.toNat)).map (blitPixel bytes)).map datWord := by simp [Function.comp_def]
  rw [chip_of_drawing hg hf hv hb hexec, he, requestWords, blitWords, chipRun_append, chipCell_restore hp, blitBodyWords,
    hburst, chipCell_rectangle hp (w := w.toNat) (h := h.toNat) (by omega) (by omega) (by omega) (by omega) (by simp)]
  refine if_ctx_congr (by omega) (fun hin => ?_) fun _ => rfl
  rw [List.getElem?_map, List.getElem?_range, Option.map_some]
  rw [row_mul_add_lt_iff (by omega)]
  omega

end Sys2Proof.Machine
end
